-- ==== Sys2Proof/Word.lean ====
section
/-! DEFINITION. The word types of the hardware: every value is an unsigned number of a stated width (00_scope.md R7). -/

namespace Sys2Proof

/-- 8 bits: a general register, a memory byte, a timer, the immediate `kk` (R5 REG_WIDTH, TIMER_WIDTH). -/
abbrev Byte := BitVec 8

/-- 16 bits: an opcode, `pc`, `I`, a stack slot, `fault_info`, the generator's state (R5 ADDR_WIDTH, INSTR_WIDTH, RNG_WIDTH). -/
abbrev Word := BitVec 16

/-- 4 bits: one nibble of an opcode (R91). -/
abbrev Nibble := BitVec 4

/-- 12 bits: the address immediate `nnn` (R91). -/
abbrev Addr12 := BitVec 12

/-- A register index, 0 to 15 (R20: every 4-bit field value names a register). -/
abbrev Reg := Fin 16

/-- A sprite height, 0 to 15 rows (R93). -/
abbrev RowCount := Fin 16

/-- A key index, 0 to 15 (R29). -/
abbrev Key := Fin 16

/-- The index of the flag register `VF` (R21). -/
abbrev flagReg : Reg := 15

end Sys2Proof
end

