-- ==== Sys2Proof/Syntax.lean ====
section
/-! DEFINITION. The instruction set: one constructor per row of spec/opcode_table.json (30_encoding.md R95), each with the
fields of its pattern in the pattern's order. The fields' types carry their ranges (R91, R93), so that no ill-formed
instruction can be written. -/

namespace Sys2Proof

/-- The 34 instructions (R95). -/
inductive Instr where
  /-- `00E0`: clear the framebuffer (R182). -/
  | cls
  /-- `00EE`: return (R130). -/
  | ret
  /-- `1nnn`: jump (R131). -/
  | jp (nnn : Addr12)
  /-- `2nnn`: call (R132). -/
  | call (nnn : Addr12)
  /-- `3xkk`: skip if `V[x] = kk` (R133). -/
  | sei (x : Reg) (kk : Byte)
  /-- `4xkk`: skip if `V[x] != kk` (R134). -/
  | snei (x : Reg) (kk : Byte)
  /-- `5xy0`: skip if `V[x] = V[y]` (R135). -/
  | ser (x y : Reg)
  /-- `6xkk`: load an immediate (R140). -/
  | ldi (x : Reg) (kk : Byte)
  /-- `7xkk`: add an immediate, no flag (R141). -/
  | addi (x : Reg) (kk : Byte)
  /-- `8xy0`: copy a register (R142). -/
  | mov (x y : Reg)
  /-- `8xy1` (R143). -/
  | or (x y : Reg)
  /-- `8xy2` (R144). -/
  | and (x y : Reg)
  /-- `8xy3` (R145). -/
  | xor (x y : Reg)
  /-- `8xy4`: add, `VF` = carry (R146). -/
  | add (x y : Reg)
  /-- `8xy5`: `V[x] - V[y]`, `VF` = no borrow (R147). -/
  | sub (x y : Reg)
  /-- `8xy6`: shift right, `VF` = old bit 0; `y` is encoded and ignored (R148, R98). -/
  | shr (x y : Reg)
  /-- `8xy7`: `V[y] - V[x]`, `VF` = no borrow (R149). -/
  | subn (x y : Reg)
  /-- `8xyE`: shift left, `VF` = old bit 7; `y` is encoded and ignored (R150, R98). -/
  | shl (x y : Reg)
  /-- `9xy0`: skip if `V[x] != V[y]` (R136). -/
  | sner (x y : Reg)
  /-- `Annn`: load the index register (R160). -/
  | ldidx (nnn : Addr12)
  /-- `Bnnn`: jump, no register added (R137). -/
  | jpb (nnn : Addr12)
  /-- `Cxkk`: random byte AND `kk` (R173). -/
  | rnd (x : Reg) (kk : Byte)
  /-- `Dxyn`: XOR-draw `n` sprite rows, `VF` = collision (R184). -/
  | drw (x y : Reg) (n : RowCount)
  /-- `Ex9E`: skip if key `V[x]` is pressed (R190). -/
  | skp (x : Reg)
  /-- `ExA1`: skip if key `V[x]` is not pressed (R191). -/
  | sknp (x : Reg)
  /-- `Fx07`: read the delay timer (R201). -/
  | lddt (x : Reg)
  /-- `Fx0A`: wait for a key by spinning (R192). -/
  | waitk (x : Reg)
  /-- `Fx15`: load the delay timer (R202). -/
  | stdt (x : Reg)
  /-- `Fx18`: load the sound timer (R203). -/
  | stst (x : Reg)
  /-- `Fx1E`: add to the index register (R161). -/
  | addidx (x : Reg)
  /-- `Fx29`: glyph address of a digit (R162). -/
  | glyph (x : Reg)
  /-- `Fx33`: store decimal digits (R163). -/
  | bcd (x : Reg)
  /-- `Fx55`: store `V[0..x]` (R164). -/
  | stm (x : Reg)
  /-- `Fx65`: load `V[0..x]` (R165). -/
  | ldm (x : Reg)
  deriving DecidableEq, Repr

/-- The spec's own unique name of each instruction (R95, R100). -/
def Instr.mnemonic : Instr → String
  | .cls => "CLS"
  | .ret => "RET"
  | .jp _ => "JP"
  | .call _ => "CALL"
  | .sei _ _ => "SEI"
  | .snei _ _ => "SNEI"
  | .ser _ _ => "SER"
  | .ldi _ _ => "LDI"
  | .addi _ _ => "ADDI"
  | .mov _ _ => "MOV"
  | .or _ _ => "OR"
  | .and _ _ => "AND"
  | .xor _ _ => "XOR"
  | .add _ _ => "ADD"
  | .sub _ _ => "SUB"
  | .shr _ _ => "SHR"
  | .subn _ _ => "SUBN"
  | .shl _ _ => "SHL"
  | .sner _ _ => "SNER"
  | .ldidx _ => "LDIDX"
  | .jpb _ => "JPB"
  | .rnd _ _ => "RND"
  | .drw _ _ _ => "DRW"
  | .skp _ => "SKP"
  | .sknp _ => "SKNP"
  | .lddt _ => "LDDT"
  | .waitk _ => "WAITK"
  | .stdt _ => "STDT"
  | .stst _ => "STST"
  | .addidx _ => "ADDIDX"
  | .glyph _ => "GLYPH"
  | .bcd _ => "BCD"
  | .stm _ => "STM"
  | .ldm _ => "LDM"

end Sys2Proof
end

