-- ==== Sys2Proof/Decode.lean ====
section
/-! DEFINITION. From bytes to instructions and back (30_encoding.md R90 to R103). Decoding is total and depends on nothing
but the opcode; a value that no row of R95 matches is rejected by name (R96). -/

namespace Sys2Proof

/-- Why no instruction is read. -/
inductive DecodeError where
  /-- The 16 bits match no row of R95 (R96). -/
  | unrecognized (op : Word)
  /-- Fewer than two bytes were given: every instruction is two (R90). -/
  | truncated
  deriving DecidableEq, Repr

/-- `op[15:12]`, the major opcode (R91). -/
def majorField (op : Word) : Nibble := op.extractLsb' 12 4

/-- `op[11:8]` (R91). -/
def xField (op : Word) : Nibble := op.extractLsb' 8 4

/-- `op[7:4]` (R91). -/
def yField (op : Word) : Nibble := op.extractLsb' 4 4

/-- `op[3:0]` (R91). -/
def nField (op : Word) : Nibble := op.extractLsb' 0 4

/-- `op[7:0]` (R91). -/
def kkField (op : Word) : Byte := op.extractLsb' 0 8

/-- `op[11:0]` (R91). -/
def nnnField (op : Word) : Addr12 := op.extractLsb' 0 12

/-- A 4-bit field as a register index (R20, R91). -/
def regOfNibble (b : Nibble) : Reg := b.toFin

/-- A register index as a 4-bit field. -/
def nibbleOfReg (r : Reg) : Nibble := BitVec.ofFin r

/-- Major opcode 0: only `00E0` and `00EE` (R94). -/
def decodeZero (op : Word) : Except DecodeError Instr :=
  if op = 0x00E0 then .ok .cls
  else if op = 0x00EE then .ok .ret
  else .error (.unrecognized op)

/-- Major opcode 8 dispatches on `n` (R94). -/
def decodeEight (op : Word) (x y : Reg) : Except DecodeError Instr :=
  match (nField op).toNat with
  | 0x0 => .ok (.mov x y)
  | 0x1 => .ok (.or x y)
  | 0x2 => .ok (.and x y)
  | 0x3 => .ok (.xor x y)
  | 0x4 => .ok (.add x y)
  | 0x5 => .ok (.sub x y)
  | 0x6 => .ok (.shr x y)
  | 0x7 => .ok (.subn x y)
  | 0xE => .ok (.shl x y)
  | _ => .error (.unrecognized op)

/-- Major opcode E dispatches on `kk` (R94). -/
def decodeKey (op : Word) (x : Reg) : Except DecodeError Instr :=
  match (kkField op).toNat with
  | 0x9E => .ok (.skp x)
  | 0xA1 => .ok (.sknp x)
  | _ => .error (.unrecognized op)

/-- Major opcode F dispatches on `kk` (R94). -/
def decodeMisc (op : Word) (x : Reg) : Except DecodeError Instr :=
  match (kkField op).toNat with
  | 0x07 => .ok (.lddt x)
  | 0x0A => .ok (.waitk x)
  | 0x15 => .ok (.stdt x)
  | 0x18 => .ok (.stst x)
  | 0x1E => .ok (.addidx x)
  | 0x29 => .ok (.glyph x)
  | 0x33 => .ok (.bcd x)
  | 0x55 => .ok (.stm x)
  | 0x65 => .ok (.ldm x)
  | _ => .error (.unrecognized op)

/-- `Decode(op)` (R94). -/
def decode (op : Word) : Except DecodeError Instr :=
  let x := regOfNibble (xField op)
  let y := regOfNibble (yField op)
  match (majorField op).toNat with
  | 0x0 => decodeZero op
  | 0x1 => .ok (.jp (nnnField op))
  | 0x2 => .ok (.call (nnnField op))
  | 0x3 => .ok (.sei x (kkField op))
  | 0x4 => .ok (.snei x (kkField op))
  | 0x5 => if nField op = 0 then .ok (.ser x y) else .error (.unrecognized op)
  | 0x6 => .ok (.ldi x (kkField op))
  | 0x7 => .ok (.addi x (kkField op))
  | 0x8 => decodeEight op x y
  | 0x9 => if nField op = 0 then .ok (.sner x y) else .error (.unrecognized op)
  | 0xA => .ok (.ldidx (nnnField op))
  | 0xB => .ok (.jpb (nnnField op))
  | 0xC => .ok (.rnd x (kkField op))
  | 0xD => .ok (.drw x y (nField op).toFin)
  | 0xE => decodeKey op x
  | 0xF => decodeMisc op x
  | _ => .error (.unrecognized op)

/-- The opcode of two bytes, the high byte at the lower address (20_memory.md R65). -/
def wordOfBytes (hi lo : Byte) : Word := hi ++ lo

/-- `op[15:8]`, the byte at the lower address (R65). -/
def highByte (op : Word) : Byte := op.extractLsb' 8 8

/-- `op[7:0]`, the byte at the higher address (R65). -/
def lowByte (op : Word) : Byte := op.extractLsb' 0 8

/-- Reads one instruction from a list of bytes, lowest address first, and gives the bytes after it: two bytes, whatever
they are (R90, R99). -/
def decodeBytes : List Byte → Except DecodeError (Instr × List Byte)
  | hi :: lo :: rest =>
    match decode (wordOfBytes hi lo) with
    | .ok i => .ok (i, rest)
    | .error e => .error e
  | _ => .error .truncated

/-- The opcode of an instruction table word: bit 0 is the least significant bit of the one 16-bit word, and the bits at
`nbits` and above are 0. -/
def tableWord (nbits w : Nat) : Word := BitVec.ofNat 16 (w % 2 ^ nbits)

/-- The bytes of a table word as the hardware stores them, lowest address first (R65). -/
def tableBytes (nbits w : Nat) : List Byte :=
  [highByte (tableWord nbits w), lowByte (tableWord nbits w)]

/-- The instruction the decoder reads from a table word. -/
def decodeTableWord (nbits w : Nat) : Option Instr :=
  match decodeBytes (tableBytes nbits w) with
  | .ok (i, _) => some i
  | .error _ => none

/-- Format NNN (R92). -/
def formatNnn (major : Nibble) (nnn : Addr12) : Word := major ++ nnn

/-- Format XKK, and with a fixed `kk` format X (R92). -/
def formatXkk (major : Nibble) (x : Reg) (kk : Byte) : Word := major ++ (nibbleOfReg x ++ kk)

/-- Format XYN, and with a fixed `n` format XY (R92). -/
def formatXyn (major : Nibble) (x y : Reg) (n : Nibble) : Word :=
  major ++ (nibbleOfReg x ++ (nibbleOfReg y ++ n))

/-- The opcode of an instruction (R92, R95). -/
def encode : Instr → Word
  | .cls => 0x00E0
  | .ret => 0x00EE
  | .jp nnn => formatNnn 0x1 nnn
  | .call nnn => formatNnn 0x2 nnn
  | .sei x kk => formatXkk 0x3 x kk
  | .snei x kk => formatXkk 0x4 x kk
  | .ser x y => formatXyn 0x5 x y 0x0
  | .ldi x kk => formatXkk 0x6 x kk
  | .addi x kk => formatXkk 0x7 x kk
  | .mov x y => formatXyn 0x8 x y 0x0
  | .or x y => formatXyn 0x8 x y 0x1
  | .and x y => formatXyn 0x8 x y 0x2
  | .xor x y => formatXyn 0x8 x y 0x3
  | .add x y => formatXyn 0x8 x y 0x4
  | .sub x y => formatXyn 0x8 x y 0x5
  | .shr x y => formatXyn 0x8 x y 0x6
  | .subn x y => formatXyn 0x8 x y 0x7
  | .shl x y => formatXyn 0x8 x y 0xE
  | .sner x y => formatXyn 0x9 x y 0x0
  | .ldidx nnn => formatNnn 0xA nnn
  | .jpb nnn => formatNnn 0xB nnn
  | .rnd x kk => formatXkk 0xC x kk
  | .drw x y n => formatXyn 0xD x y (BitVec.ofFin n)
  | .skp x => formatXkk 0xE x 0x9E
  | .sknp x => formatXkk 0xE x 0xA1
  | .lddt x => formatXkk 0xF x 0x07
  | .waitk x => formatXkk 0xF x 0x0A
  | .stdt x => formatXkk 0xF x 0x15
  | .stst x => formatXkk 0xF x 0x18
  | .addidx x => formatXkk 0xF x 0x1E
  | .glyph x => formatXkk 0xF x 0x29
  | .bcd x => formatXkk 0xF x 0x33
  | .stm x => formatXkk 0xF x 0x55
  | .ldm x => formatXkk 0xF x 0x65

/-- The bytes of an instruction, lowest address first (R65). -/
def encodeBytes (i : Instr) : List Byte := [highByte (encode i), lowByte (encode i)]

/-- A row of the opcode map (R95): an opcode belongs to it exactly when `(op AND mask) = match`. -/
structure OpcodeRow where
  mnemonic : String
  value : Word
  mask : Word
  deriving DecidableEq, Repr

/-- The opcode map of R95, in its order. -/
def opcodeMap : List OpcodeRow :=
  [⟨"CLS", 0x00E0, 0xFFFF⟩, ⟨"RET", 0x00EE, 0xFFFF⟩, ⟨"JP", 0x1000, 0xF000⟩, ⟨"CALL", 0x2000, 0xF000⟩,
   ⟨"SEI", 0x3000, 0xF000⟩, ⟨"SNEI", 0x4000, 0xF000⟩, ⟨"SER", 0x5000, 0xF00F⟩, ⟨"LDI", 0x6000, 0xF000⟩,
   ⟨"ADDI", 0x7000, 0xF000⟩, ⟨"MOV", 0x8000, 0xF00F⟩, ⟨"OR", 0x8001, 0xF00F⟩, ⟨"AND", 0x8002, 0xF00F⟩,
   ⟨"XOR", 0x8003, 0xF00F⟩, ⟨"ADD", 0x8004, 0xF00F⟩, ⟨"SUB", 0x8005, 0xF00F⟩, ⟨"SHR", 0x8006, 0xF00F⟩,
   ⟨"SUBN", 0x8007, 0xF00F⟩] ++
  [⟨"SHL", 0x800E, 0xF00F⟩, ⟨"SNER", 0x9000, 0xF00F⟩, ⟨"LDIDX", 0xA000, 0xF000⟩, ⟨"JPB", 0xB000, 0xF000⟩,
   ⟨"RND", 0xC000, 0xF000⟩, ⟨"DRW", 0xD000, 0xF000⟩, ⟨"SKP", 0xE09E, 0xF0FF⟩, ⟨"SKNP", 0xE0A1, 0xF0FF⟩,
   ⟨"LDDT", 0xF007, 0xF0FF⟩, ⟨"WAITK", 0xF00A, 0xF0FF⟩, ⟨"STDT", 0xF015, 0xF0FF⟩, ⟨"STST", 0xF018, 0xF0FF⟩,
   ⟨"ADDIDX", 0xF01E, 0xF0FF⟩, ⟨"GLYPH", 0xF029, 0xF0FF⟩, ⟨"BCD", 0xF033, 0xF0FF⟩, ⟨"STM", 0xF055, 0xF0FF⟩,
   ⟨"LDM", 0xF065, 0xF0FF⟩]

end Sys2Proof
end

