-- ==== Sys2Proof/Config.lean ====
section
/-! DEFINITION. What the implementation fixes (00_scope.md R5; the sizes of the register files, of the stack and of the
framebuffer stand in the types of State) and the three open parameters (R6), which have no body: nothing proved through the
model can rest on a value of theirs. -/

namespace Sys2Proof

/-- MEM_SIZE (R5). -/
@[simp] abbrev Config.memSize : Nat := 4096

/-- GLYPH_BASE (R5). -/
@[simp] abbrev Config.glyphBase : Nat := 0x050

/-- The size of the glyph table in bytes, 16 glyphs of 5 bytes (R5 GLYPH_COUNT, GLYPH_STRIDE). -/
@[simp] abbrev Config.glyphSize : Nat := 80

/-- PROGRAM_BASE, also the reset value of `pc` (R5). -/
@[simp] abbrev Config.programBase : Nat := 0x200

/-- MAX_IMAGE (R5). -/
@[simp] abbrev Config.maxImage : Nat := 3584

/-- The largest `pc` at which a fetch succeeds (R22, R65). -/
@[simp] abbrev Config.lastFetch : Nat := 0xFFE

/-- GLYPH_TABLE (R6 (a), R62): the 80 bytes at 0x050 to 0x09F after reset. The source does not give them: an open
parameter, log entry 1. -/
opaque Config.glyphTable : Fin 80 → Byte

/-- RNG_SEED (R6 (b), R32): the generator's state after reset. The source does not give it: an open parameter, log entry 2. -/
opaque Config.rngSeed : Word

/-- RNG_STEP (R6 (c), R171): from a 16-bit state to the next state and one output bit. Only that it is a total function
of the state is known: an open parameter, log entry 2. -/
opaque Config.rngStep : Word → Word × Bool

/-- The named property that R171 asks a claim to assume if it needs what "maximal-length" adds: the all-zero state maps
to itself, and every non-zero state reaches every non-zero state. Nothing in the model assumes it. -/
def Config.MaximalLength (bitStep : Word → Word × Bool) : Prop :=
  (bitStep 0).1 = 0 ∧
    ∀ a b : Word, a ≠ 0 → b ≠ 0 → ∃ k : Nat, (fun r => (bitStep r).1)^[k] a = b

/-- The reference seed of R175, for simulation only: the machine does not use it. -/
def Config.referenceSeed : Word := 0xACE1

/-- The reference bit step of R175, for simulation only: the machine does not use it. -/
def Config.referenceStep (r : Word) : Word × Bool :=
  let bit := (r.getLsbD 0 ^^ r.getLsbD 2) ^^ (r.getLsbD 3 ^^ r.getLsbD 5)
  (BitVec.ofBool bit ++ r.extractLsb' 1 15, bit)

/-- The default glyph bytes of R62 (from general knowledge, not in the source), for simulation only: the machine does not
use them. -/
def Config.defaultGlyphs : List Byte :=
  [0xF0, 0x90, 0x90, 0x90, 0xF0,  0x20, 0x60, 0x20, 0x20, 0x70,
   0xF0, 0x10, 0xF0, 0x80, 0xF0,  0xF0, 0x10, 0xF0, 0x10, 0xF0,
   0x90, 0x90, 0xF0, 0x10, 0x10,  0xF0, 0x80, 0xF0, 0x10, 0xF0,
   0xF0, 0x80, 0xF0, 0x90, 0xF0,  0xF0, 0x10, 0x20, 0x40, 0x40] ++
  [0xF0, 0x90, 0xF0, 0x90, 0xF0,  0xF0, 0x90, 0xF0, 0x10, 0xF0,
   0xF0, 0x90, 0xF0, 0x90, 0x90,  0xE0, 0x90, 0xE0, 0x90, 0xE0,
   0xF0, 0x80, 0x80, 0x80, 0xF0,  0xE0, 0x90, 0x90, 0x90, 0xE0,
   0xF0, 0x80, 0xF0, 0x80, 0xF0,  0xF0, 0x80, 0xF0, 0x80, 0x80]

end Sys2Proof
end

