-- ==== Sys2Proof/Machine/State.lean ====
section
/-! DEFINITION. The state of one instance: the tuple of 10_state.md, each piece under the rule that names it, and its value
after reset (R38). Plain data throughout. -/

namespace Sys2Proof.Machine

open Sys2Proof

/-- `status` (R28). -/
inductive Status where
  | running
  | faulted
  deriving DecidableEq, Repr

/-- The six faults of 60_exceptions.md R210. Taking one is a step like any other: it writes `status`, `cause` and
`fault_info` (R222), and the machine answers that next state. -/
inductive FaultKind where
  | unrecognizedOpcode
  | stackOverflow
  | stackUnderflow
  | memoryOutOfRange
  | fetchOutOfRange
  | keyIndexOutOfRange
  deriving DecidableEq, Repr

/-- The bytes of `MEM` that differ from their reset contents, as pairs of address and byte: addresses strictly rising and
no entry equal to the reset contents (R34; the form is Memory.wf of Ops.lean). -/
abbrev Memory := List Host.Cell

/-- The framebuffer (R30): 32 rows, top to bottom, of 64 cells, left to right. `FB[r * 64 + c]` is cell `c` of row `r`. -/
abbrev Frame := Vector (Vector Bool 64) 32

/-- The complete state of one instance (10_state.md: "Nothing else is state"). -/
structure State where
  /-- `V[0]` to `V[15]`; `V[15]` is the flag register `VF` (R20, R21). -/
  v : Vector Byte 16
  /-- `pc` (R22). -/
  pc : Word
  /-- `I`, the index register (R23). -/
  index : Word
  /-- `stack[0]` to `stack[15]` (R24). -/
  stack : Vector Word 16
  /-- `SP`, the number of occupied slots, 0 to 16 (R25). -/
  sp : Fin 17
  /-- `DT`, the delay timer (R26). -/
  dt : Byte
  /-- `ST`, the sound timer (R27). -/
  st : Byte
  /-- `K[0]` to `K[15]`, true = pressed (R29). -/
  keys : Vector Bool 16
  /-- `FB`, true = lit (R30). -/
  fb : Frame
  /-- `dirty` (R31). -/
  dirty : Bool
  /-- `rng`, the generator's state (R32). -/
  rng : Word
  /-- `MEM` (R34). -/
  mem : Memory
  /-- `status` (R28). -/
  status : Status
  /-- `cause`, a code of R210, 0 = none (R28). -/
  cause : BitVec 3
  /-- `fault_info` (R28). -/
  faultInfo : Word
  deriving DecidableEq, Repr

/-- Why the machine stops. -/
inductive Fault where
  /-- Raised by a step triggered while `status = FAULTED`: "the block has no step" (40_control_flow.md R124). Safe: no next
  state is answered, and the frozen state is the one the step was given (log entry 4). -/
  | noStepWhenFaulted
  deriving DecidableEq, Repr

/-- Why the machine refuses. -/
inductive Refusal where
  /-- An instruction that has no meaning yet: no arm of exec uses it. Safe. -/
  | notModelled (mnemonic : String)
  /-- Raised by the driver's press or release with an index outside 0 to 15, "a caller contract violation"
  (60_exceptions.md R227). Safe: the driver has no such action. -/
  | keyIndexOutsideContract (i : Nat)
  /-- Raised by reset with an image of more than 3584 bytes: "construction does not proceed to a usable instance"
  (60_exceptions.md R217, 70_reset_and_hazards.md R252). Safe: no instance exists. -/
  | imageTooLarge (length : Nat)
  deriving DecidableEq, Repr

/-- What a step, or a move of the driver, answers. -/
abbrev Result := Host.Outcome State Fault Refusal

/-- The state after reset with the empty image (R38, R251). -/
def State.reset : State where
  v := Vector.replicate 16 0
  pc := 0x0200
  index := 0
  stack := Vector.replicate 16 0
  sp := 0
  dt := 0
  st := 0
  keys := Vector.replicate 16 false
  fb := Vector.replicate 32 (Vector.replicate 64 false)
  dirty := false
  rng := Config.rngSeed
  mem := []
  status := .running
  cause := 0
  faultInfo := 0

end Sys2Proof.Machine
end

