-- ==== Sys2Proof/Machine/Ops.lean ====
section
/-! DEFINITION. The named operations over memory, registers, `pc`, the call stack and the timers, and taking a fault.
Memory: 20_memory.md R60 to R69. `pc` updates: 40_control_flow.md R122. Faults: 60_exceptions.md R210, R222. -/

namespace Sys2Proof.Machine

open Sys2Proof

/-! ## Memory -/

/-- What an address that memory does not list reads as: the reset contents with the empty image (R63). -/
def initialByte (a : Nat) : Byte :=
  if h : Config.glyphBase ≤ a ∧ a - Config.glyphBase < Config.glyphSize then
    Config.glyphTable ⟨a - Config.glyphBase, h.2⟩
  else 0

/-- `MEM[a]` (R64), for `a` below 4096. -/
def Memory.read : Memory → Nat → Byte
  | [], a => initialByte a
  | (k, b) :: m, a => if k = a then b else Memory.read m a

/-- Puts an entry before the first entry of a higher address. -/
def Memory.insert (a : Nat) (b : Byte) : Memory → Memory
  | [] => [(a, b)]
  | (k, c) :: m => if a < k then (a, b) :: (k, c) :: m else (k, c) :: Memory.insert a b m

/-- `MEM[a] <- b` (R64), for `a` below 4096. The entry of `a` goes, and a new one comes unless `b` is the reset contents. -/
def Memory.write (m : Memory) (a : Nat) (b : Byte) : Memory :=
  let rest := m.filter (fun c => c.1 != a)
  if b = initialByte a then rest else Memory.insert a b rest

/-- Writes bytes at ascending addresses from `a`. -/
def Memory.writeList (m : Memory) (a : Nat) : List Byte → Memory
  | [] => m
  | b :: bs => Memory.writeList (Memory.write m a b) (a + 1) bs

/-- Reads bytes at ascending addresses from `a`. -/
def Memory.readList (m : Memory) (a : Nat) : Nat → List Byte
  | 0 => []
  | n + 1 => Memory.read m a :: Memory.readList m (a + 1) n

/-- The canonical form: addresses below 4096 and strictly rising, no entry equal to the reset contents. -/
def Memory.wf : Memory → Bool
  | [] => true
  | (a, b) :: m =>
    decide (a < Config.memSize) && b != initialByte a && m.all (fun c => decide (a < c.1)) && Memory.wf m

/-! ## General registers and flag -/

/-- `V[r]` (R8, R20). -/
def State.reg (s : State) (r : Reg) : Byte := s.v[r.val]'r.isLt

/-- `V[r] <- b` (R8, R20). -/
def State.setReg (s : State) (r : Reg) (b : Byte) : State := { s with v := s.v.set r.val b r.isLt }

/-- Replaces all general registers (R165: a load of a range). -/
def State.setRegs (s : State) (v : Vector Byte 16) : State := { s with v := v }

/-! ## Special registers -/

/-- `I <- a`, never checked (R23). -/
def State.setIndex (s : State) (a : Word) : State := { s with index := a }

/-- `DT <- b` (R26). -/
def State.setDelay (s : State) (b : Byte) : State := { s with dt := b }

/-- `ST <- b` (R27). -/
def State.setSound (s : State) (b : Byte) : State := { s with st := b }

/-- `rng <- r` (R32). -/
def State.setRng (s : State) (r : Word) : State := { s with rng := r }

/-- Replaces `MEM` (R34). -/
def State.setMem (s : State) (m : Memory) : State := { s with mem := m }

/-- A clear or a draw has written `FB`: `dirty` is set, whether or not a cell changed (R31, R186). -/
def State.setFrame (s : State) (f : Frame) : State := { s with fb := f, dirty := true }

/-! ## The four `pc` updates (R122) -/

/-- `pc <- a`, the update jump. -/
def State.jump (s : State) (a : Word) : State := { s with pc := a }

/-- `pc <- pc + 2`, the update next. -/
def State.advance (s : State) : State := s.jump (s.pc + 2)

/-- `pc <- pc + 4`, the update skip. -/
def State.skip (s : State) : State := s.jump (s.pc + 4)

/-- Skip if the condition holds, else next. -/
def State.skipIf (s : State) (c : Bool) : State := if c then s.skip else s.advance

/-! ## The call stack (R24, R25) -/

/-- `stack[SP] <- a; SP <- SP + 1`, for a stack that is not full. -/
def State.push (s : State) (a : Word) (h : s.sp.val < 16) : State :=
  { s with stack := s.stack.set s.sp.val a h, sp := ⟨s.sp.val + 1, Nat.succ_lt_succ h⟩ }

/-- `stack[SP - 1]`, the top slot, for a stack that is not empty. -/
def State.top (s : State) (h : 0 < s.sp.val) : Word :=
  s.stack[s.sp.val - 1]'(Nat.lt_of_lt_of_le (Nat.sub_lt h Nat.one_pos) (Nat.le_of_lt_succ s.sp.isLt))

/-- `SP <- SP - 1`; the slot keeps its contents (R24). -/
def State.pop (s : State) : State :=
  { s with sp := ⟨s.sp.val - 1, Nat.lt_of_le_of_lt (Nat.sub_le _ _) s.sp.isLt⟩ }

/-! ## Faults -/

/-- The code of a fault in `cause` (R210). -/
def FaultKind.code : FaultKind → BitVec 3
  | .unrecognizedOpcode => 1
  | .stackOverflow => 2
  | .stackUnderflow => 3
  | .memoryOutOfRange => 4
  | .fetchOutOfRange => 5
  | .keyIndexOutOfRange => 6

/-- `raise <Fault>(info)` on the state before the step (R222): `status`, `cause` and `fault_info` are written and nothing
else changes. There is no return from a fault (R224). -/
def State.raise (s : State) (k : FaultKind) (info : Word) : State :=
  { s with status := .faulted, cause := k.code, faultInfo := info }

/-- A step that ends in a fault answers the faulted state. -/
def raiseFault (k : FaultKind) (info : Word) (s : State) : Result := .next (s.raise k info)

/-! ## The tick -/

/-- A timer after one tick: it saturates at 0 (R200). -/
def tickTimer (b : Byte) : Byte := if b = 0 then 0 else b - 1

/-- The tick of both timers (R200). -/
def State.tick (s : State) : State := { s with dt := tickTimer s.dt, st := tickTimer s.st }

/-! ## Fetch -/

/-- The 16 bits at `pc` and `pc + 1`, high byte first; none if `pc > 0xFFE` (R65). -/
def State.fetch (s : State) : Option Word :=
  if s.pc.toNat ≤ Config.lastFetch then
    some (wordOfBytes (s.mem.read s.pc.toNat) (s.mem.read (s.pc.toNat + 1)))
  else none

/-- Stores an opcode where the next step fetches (R65). Where `pc > 0xFFE` no fetch can succeed and nothing is stored. -/
def State.placeAtPc (s : State) (op : Word) : State :=
  if s.pc.toNat ≤ Config.lastFetch then
    s.setMem (s.mem.writeList s.pc.toNat [highByte op, lowByte op])
  else s

end Sys2Proof.Machine
end

