-- ==== Sys2Proof/Machine/Cycle.lean ====
section
/-! DEFINITION. The step around the execution of one instruction: 40_control_flow.md R121, R123, R124. -/

namespace Sys2Proof.Machine

open Sys2Proof

/-- The end of a step: the tick, unless the instruction ended in a fault (R121 (e), R123, R200). -/
def finishStep : Result → Result
  | .next t => .next (match t.status with
    | .running => t.tick
    | .faulted => t)
  | .fault f => .fault f
  | .refused r => .refused r

/-- The fetch-decode-execute-tick cycle for a running machine, over the meaning of the instructions (R121): the first check
that fails is the one reported (R221). -/
def cycle (run : Instr → State → Result) (s : State) : Result :=
  match s.fetch with
  | none => raiseFault .fetchOutOfRange s.pc s
  | some op =>
    match decode op with
    | .ok i => finishStep (run i s)
    | .error _ => raiseFault .unrecognizedOpcode op s

/-- One trigger: in the FAULTED state there is no step (R124). -/
def trigger (run : Instr → State → Result) (s : State) : Result :=
  match s.status with
  | .running => cycle run s
  | .faulted => .fault .noStepWhenFaulted

end Sys2Proof.Machine
end

