-- ==== Sys2Proof/Machine/Flags.lean ====
section
/-! DEFINITION. The flag register and what each flag-writing instruction puts in it (10_state.md R21; 41 R146 to R153). -/

namespace Sys2Proof.Machine

open Sys2Proof

/-- A flag as `VF` holds it: 0x00 or 0x01 (R21). -/
def flagByte (c : Bool) : Byte := if c then 1 else 0

/-- `V[F] <- flag` (R21). -/
def State.setFlag (s : State) (c : Bool) : State := s.setReg flagReg (flagByte c)

/-- The carry out of an 8-bit addition: bit 8 of the exact sum (R146, R153). -/
def carryOut (a b : Byte) : Bool := (a.setWidth 9 + b.setWidth 9).getLsbD 8

/-- No borrow in `a - b`: `a >= b`, unsigned (R147, R149, R153). -/
def noBorrow (a b : Byte) : Bool := decide (b.toNat ≤ a.toNat)

/-- The bit a shift right by one moves out: bit 0 (R148). -/
def bitOutRight (a : Byte) : Bool := a.getLsbD 0

/-- The bit a shift left by one moves out: bit 7 (R150). -/
def bitOutLeft (a : Byte) : Bool := a.getLsbD 7

/-- The two writes of a flag-producing instruction and its `pc` update: the result first, then the flag (R152), then the update next. -/
def State.putResult (s : State) (x : Reg) (result : Byte) (flag : Bool) : State :=
  ((s.setReg x result).setFlag flag).advance

end Sys2Proof.Machine
end

