-- ==== Sys2Proof/Machine/Alu.lean ====
section
/-! DEFINITION. Register and ALU instructions: 41_register_alu.md R140 to R153. -/

namespace Sys2Proof.Machine

open Sys2Proof

/-- `LDI Vx, kk` (R140). -/
def execLdi (x : Reg) (kk : Byte) (s : State) : Result := .next (s.setReg x kk).advance

/-- `ADDI Vx, kk` (R141): wraps modulo 256, no flag. -/
def execAddi (x : Reg) (kk : Byte) (s : State) : Result := .next (s.setReg x (s.reg x + kk)).advance

/-- `MOV Vx, Vy` (R142). -/
def execMov (x y : Reg) (s : State) : Result := .next (s.setReg x (s.reg y)).advance

/-- `OR Vx, Vy` (R143). -/
def execOr (x y : Reg) (s : State) : Result := .next (s.setReg x (s.reg x ||| s.reg y)).advance

/-- `AND Vx, Vy` (R144). -/
def execAnd (x y : Reg) (s : State) : Result := .next (s.setReg x (s.reg x &&& s.reg y)).advance

/-- `XOR Vx, Vy` (R145). -/
def execXor (x y : Reg) (s : State) : Result := .next (s.setReg x (s.reg x ^^^ s.reg y)).advance

/-- `ADD Vx, Vy` (R146). -/
def execAdd (x y : Reg) (s : State) : Result :=
  .next (s.putResult x (s.reg x + s.reg y) (carryOut (s.reg x) (s.reg y)))

/-- `SUB Vx, Vy` (R147). -/
def execSub (x y : Reg) (s : State) : Result :=
  .next (s.putResult x (s.reg x - s.reg y) (noBorrow (s.reg x) (s.reg y)))

/-- `SHR Vx, Vy` (R148): `V[y]` is not read (R98). -/
def execShr (x _y : Reg) (s : State) : Result :=
  .next (s.putResult x (s.reg x >>> 1) (bitOutRight (s.reg x)))

/-- `SUBN Vx, Vy` (R149). -/
def execSubn (x y : Reg) (s : State) : Result :=
  .next (s.putResult x (s.reg y - s.reg x) (noBorrow (s.reg y) (s.reg x)))

/-- `SHL Vx, Vy` (R150): `V[y]` is not read (R98). -/
def execShl (x _y : Reg) (s : State) : Result :=
  .next (s.putResult x (s.reg x <<< 1) (bitOutLeft (s.reg x)))

end Sys2Proof.Machine
end

