-- ==== Sys2Proof/Machine/Operands.lean ====
section
/-! DEFINITION. How operands become values and addresses: immediates (30_encoding.md R93), data ranges (42 R166), glyph
addresses (42 R162), decimal digits (42 R163), register ranges (42 R164, R165) and key indices (45 R193). -/

namespace Sys2Proof.Machine

open Sys2Proof

/-- `zext_16(nnn)` (R93). -/
def zextAddr (nnn : Addr12) : Word := nnn.setWidth 16

/-- `zext_16(b)` for a register value (R161, R162, R210). -/
def zextByte (b : Byte) : Word := b.setWidth 16

/-- Every address from `base` to `base + kmax` exists; the sum is not wrapped (R64, R166). -/
def rangeExists (base : Word) (kmax : Nat) : Bool := decide (base.toNat + kmax < Config.memSize)

/-- `0x50 + 5 × b`, on the whole byte (R162). -/
def glyphAddress (b : Byte) : Word := 0x0050 + 5 * zextByte b

/-- Hundreds, tens and units of a byte, in the order of their addresses (R163). -/
def decimalDigits (b : Byte) : List Byte :=
  [BitVec.ofNat 8 (b.toNat / 100), BitVec.ofNat 8 (b.toNat / 10 % 10), BitVec.ofNat 8 (b.toNat % 10)]

/-- `V[0]` to `V[x]`, in ascending order (R164). -/
def State.regsUpTo (s : State) (x : Reg) : List Byte := s.v.toList.take (x.val + 1)

/-- `V[i] <- MEM[base + i]` for the first `n` registers, in ascending order (R165). -/
def loadRegs (m : Memory) (base : Nat) : Nat → Vector Byte 16 → Vector Byte 16
  | 0, v => v
  | n + 1, v => (loadRegs m base n v).setIfInBounds n (m.read (base + n))

/-- The key a register value names: only 0 to 15 name one, and the value is not masked (R193). -/
def keyIndex (b : Byte) : Option Key := if h : b.toNat < 16 then some ⟨b.toNat, h⟩ else none

/-- `K[i]` (R29). -/
def State.key (s : State) (i : Key) : Bool := s.keys[i.val]'i.isLt

/-- The least index of a pressed key (R192). -/
def State.lowestKey (s : State) : Option Key := (List.finRange 16).find? s.key

end Sys2Proof.Machine
end

