-- ==== Sys2Proof/Machine/ControlFlow.lean ====
section
/-! DEFINITION. Control transfer: 40_control_flow.md R130 to R137. -/

namespace Sys2Proof.Machine

open Sys2Proof

/-- `RET` (R130). -/
def execRet (s : State) : Result :=
  if h : 0 < s.sp.val then .next (s.pop.jump (s.top h + 2))
  else raiseFault .stackUnderflow s.pc s

/-- `JP nnn` (R131). -/
def execJp (nnn : Addr12) (s : State) : Result := .next (s.jump (zextAddr nnn))

/-- `CALL nnn` (R132): the address pushed is that of the `CALL` itself. -/
def execCall (nnn : Addr12) (s : State) : Result :=
  if h : s.sp.val < 16 then .next ((s.push s.pc h).jump (zextAddr nnn))
  else raiseFault .stackOverflow s.pc s

/-- `JPB nnn` (R137): no register is added. -/
def execJpb (nnn : Addr12) (s : State) : Result := .next (s.jump (zextAddr nnn))

/-- `SEI Vx, kk` (R133). -/
def execSei (x : Reg) (kk : Byte) (s : State) : Result := .next (s.skipIf (s.reg x == kk))

/-- `SNEI Vx, kk` (R134). -/
def execSnei (x : Reg) (kk : Byte) (s : State) : Result := .next (s.skipIf (s.reg x != kk))

/-- `SER Vx, Vy` (R135). -/
def execSer (x y : Reg) (s : State) : Result := .next (s.skipIf (s.reg x == s.reg y))

/-- `SNER Vx, Vy` (R136). -/
def execSner (x y : Reg) (s : State) : Result := .next (s.skipIf (s.reg x != s.reg y))

end Sys2Proof.Machine
end

