-- ==== Sys2Proof/Machine/Display.lean ====
section
/-! DEFINITION. Framebuffer, sprite engine and collision detector: 44_display.md R180 to R187. -/

namespace Sys2Proof.Machine

open Sys2Proof

/-- The cell of column `c` and row `r`, both wrapped (R180, R181). -/
def pixel (f : Frame) (c r : Nat) : Bool :=
  (f[r % 32]'(Nat.mod_lt _ (Nat.succ_pos _)))[c % 64]'(Nat.mod_lt _ (Nat.succ_pos _))

/-- `FB[i]` (R30, R180): column `i mod 64` of row `i div 64`. -/
def cell (f : Frame) (i : Fin 2048) : Bool := pixel f (i.val % 64) (i.val / 64)

/-- The cell of column `c` and row `r`, both wrapped, XOR 1 (R181, R183). -/
def flipPixel (f : Frame) (c r : Nat) : Frame :=
  f.set (r % 32)
    ((f[r % 32]'(Nat.mod_lt _ (Nat.succ_pos _))).set (c % 64) (!pixel f c r) (Nat.mod_lt _ (Nat.succ_pos _)))
    (Nat.mod_lt _ (Nat.succ_pos _))

/-- The framebuffer and the collision bit while a sprite is being drawn. -/
structure Drawing where
  frame : Frame
  collision : Bool
  deriving DecidableEq, Repr

/-- A sprite bit of 1 at column `c` and row `r`: a collision if the cell was lit, then the XOR (R183). -/
def drawPixel (c r : Nat) (d : Drawing) : Drawing :=
  { frame := flipPixel d.frame c r, collision := d.collision || pixel d.frame c r }

/-- The first `n` columns of a sprite row: bit 7 is column 0, and a bit of 0 leaves its cell alone (R183). -/
def drawBits (px r : Nat) (b : Byte) : Nat → Drawing → Drawing
  | 0, d => d
  | n + 1, d =>
    if b.getLsbD (7 - n) then drawPixel (px + n) r (drawBits px r b n d) else drawBits px r b n d

/-- The sprite rows, the first at row `py` (R183). -/
def drawRows (px : Nat) : Nat → List Byte → Drawing → Drawing
  | _, [], d => d
  | py, b :: bs, d => drawRows px (py + 1) bs (drawBits px py b 8 d)

/-- `Draw(px, py, bytes)` on a framebuffer (R183): the new framebuffer and the collision bit. -/
def draw (px py : Nat) (bytes : List Byte) (f : Frame) : Drawing :=
  drawRows px py bytes { frame := f, collision := false }

/-- A framebuffer with every cell 0 (R182). -/
def clearFrame : Frame := Vector.replicate 32 (Vector.replicate 64 false)

/-- `CLS` (R182). -/
def execCls (s : State) : Result := .next (s.setFrame clearFrame).advance

/-- The bytes of a sprite of `n` rows exist; a sprite of no rows reads none (R166, R184). -/
def spriteExists (base : Word) (n : RowCount) : Bool := n.val == 0 || rangeExists base (n.val - 1)

/-- `DRW Vx, Vy, n` (R184). -/
def execDrw (x y : Reg) (n : RowCount) (s : State) : Result :=
  if spriteExists s.index n then
    let d := draw (s.reg x).toNat (s.reg y).toNat (s.mem.readList s.index.toNat n.val) s.fb
    .next ((s.setFrame d.frame).setFlag d.collision).advance
  else raiseFault .memoryOutOfRange s.index s

end Sys2Proof.Machine
end

