-- ==== Sys2Proof/Machine/IndexMemory.lean ====
section
/-! DEFINITION. Index register and memory instructions: 42_index_and_memory.md R160 to R166. An access never changes `I`. -/

namespace Sys2Proof.Machine

open Sys2Proof

/-- `LDIDX nnn` (R160). -/
def execLdidx (nnn : Addr12) (s : State) : Result := .next (s.setIndex (zextAddr nnn)).advance

/-- `ADDIDX Vx` (R161): wraps modulo 65536, no flag, never faults. -/
def execAddidx (x : Reg) (s : State) : Result := .next (s.setIndex (s.index + zextByte (s.reg x))).advance

/-- `GLYPH Vx` (R162). -/
def execGlyph (x : Reg) (s : State) : Result := .next (s.setIndex (glyphAddress (s.reg x))).advance

/-- A store of bytes at `I` and up: the whole range is checked before the first write (R166). -/
def storeAtIndex (bytes : List Byte) (s : State) : Result :=
  if rangeExists s.index (bytes.length - 1) then
    .next (s.setMem (s.mem.writeList s.index.toNat bytes)).advance
  else raiseFault .memoryOutOfRange s.index s

/-- `BCD Vx` (R163). -/
def execBcd (x : Reg) (s : State) : Result := storeAtIndex (decimalDigits (s.reg x)) s

/-- `STM Vx` (R164). -/
def execStm (x : Reg) (s : State) : Result := storeAtIndex (s.regsUpTo x) s

/-- `LDM Vx` (R165). -/
def execLdm (x : Reg) (s : State) : Result :=
  if rangeExists s.index x.val then
    .next (s.setRegs (loadRegs s.mem s.index.toNat (x.val + 1) s.v)).advance
  else raiseFault .memoryOutOfRange s.index s

end Sys2Proof.Machine
end

