-- ==== Sys2Proof/Machine/Keypad.lean ====
section
/-! DEFINITION. Keypad instructions: 45_keypad.md R190 to R194. They read levels and never write `K`. -/

namespace Sys2Proof.Machine

open Sys2Proof

/-- `SKP Vx` (R190). -/
def execSkp (x : Reg) (s : State) : Result :=
  match keyIndex (s.reg x) with
  | some k => .next (s.skipIf (s.key k))
  | none => raiseFault .keyIndexOutOfRange (zextByte (s.reg x)) s

/-- `SKNP Vx` (R191). -/
def execSknp (x : Reg) (s : State) : Result :=
  match keyIndex (s.reg x) with
  | some k => .next (s.skipIf (!s.key k))
  | none => raiseFault .keyIndexOutOfRange (zextByte (s.reg x)) s

/-- `WAITK Vx` (R192): with no key pressed, the update stay. -/
def execWaitk (x : Reg) (s : State) : Result :=
  match s.lowestKey with
  | some k => .next (s.setReg x (BitVec.ofNat 8 k.val)).advance
  | none => .next s

end Sys2Proof.Machine
end

