-- ==== Sys2Proof/Machine/Random.lean ====
section
/-! DEFINITION. The pseudo-random byte generator and its instruction: 43_random.md R170 to R175. -/

namespace Sys2Proof.Machine

open Sys2Proof

/-- The first `n` rounds of `Gen()` for a bit step: the generator's state, and a byte whose bit `i` is the bit drawn in
round `i` (R172). -/
def genBits (bitStep : Word → Word × Bool) : Nat → Word → Word × Byte
  | 0, r => (r, 0)
  | n + 1, r =>
    let (r', b) := genBits bitStep n r
    let (r'', bit) := bitStep r'
    (r'', if bit then b ||| (1#8 <<< n) else b)

/-- `Gen()` for a bit step: eight rounds, least significant bit first (R172). -/
def genByte (bitStep : Word → Word × Bool) (r : Word) : Word × Byte := genBits bitStep 8 r

/-- The machine's `Gen()`, over the open parameter RNG_STEP (R171, R172). -/
def gen (r : Word) : Word × Byte := genByte Config.rngStep r

/-- `RND Vx, kk` (R173). -/
def execRnd (x : Reg) (kk : Byte) (s : State) : Result :=
  .next ((s.setRng (gen s.rng).1).setReg x ((gen s.rng).2 &&& kk)).advance

end Sys2Proof.Machine
end

