-- ==== Sys2Proof/Machine/Timers.lean ====
section
/-! DEFINITION. Timer instructions: 46_timers.md R201 to R203. The tick that ends their step is in Cycle.lean. -/

namespace Sys2Proof.Machine

open Sys2Proof

/-- `LDDT Vx` (R201). -/
def execLddt (x : Reg) (s : State) : Result := .next (s.setReg x s.dt).advance

/-- `STDT Vx` (R202). -/
def execStdt (x : Reg) (s : State) : Result := .next (s.setDelay (s.reg x)).advance

/-- `STST Vx` (R203). -/
def execStst (x : Reg) (s : State) : Result := .next (s.setSound (s.reg x)).advance

end Sys2Proof.Machine
end

