-- ==== Sys2Proof/Machine/Step.lean ====
section
/-! DEFINITION. The step (40_control_flow.md R120, R121) and the placing of one instruction where it fetches next. -/

namespace Sys2Proof.Machine

open Sys2Proof

/-- One Step trigger (R120, R121, R124). -/
def step (s : State) : Host.Outcome State Fault Refusal := trigger exec s

/-- The state with an opcode-table word stored at `pc` and `pc + 1`, high byte first: the next step runs it. -/
def State.withFetchWord (s : State) (nbits w : Nat) : State := s.placeAtPc (tableWord nbits w)

end Sys2Proof.Machine
end

