-- ==== Sys2Proof/Machine/Driver.lean ====
section
/-! DEFINITION. The boundary to the outside: what the spec's host (R12; here "the driver") may do between steps
(60_exceptions.md R226 to R231, R236), and reset with a program image (70_reset_and_hazards.md R250 to R252). -/

namespace Sys2Proof.Machine

open Sys2Proof

/-- Reset with a program image (R63, R250, R252): a complete fresh state, or no instance if the image is too long. -/
def resetWith (image : List Byte) : Result :=
  if image.length ≤ Config.maxImage then
    .next (State.reset.setMem (State.reset.mem.writeList Config.programBase image))
  else .refused (.imageTooLarge image.length)

/-- `K[i] <- b`. -/
def State.setKey (s : State) (i : Key) (b : Bool) : State := { s with keys := s.keys.set i.val b i.isLt }

/-- `press(i)` and `release(i)` (R227): an index outside 0 to 15 is refused. -/
def driveKey (i : Nat) (b : Bool) (s : State) : Result :=
  if h : i < 16 then .next (s.setKey ⟨i, h⟩ b) else .refused (.keyIndexOutsideContract i)

/-- `ack()` (R229). -/
def State.acknowledge (s : State) : State := { s with dirty := false }

/-- What the driver reads from the framebuffer: the 2048 cells, row-major, origin top-left (R228). -/
def State.framebuffer (s : State) : List Bool := s.fb.toList.flatMap (fun row => row.toList)

/-- What the driver reads from the fault registers (R223). -/
def State.faultRegisters (s : State) : Status × BitVec 3 × Word := (s.status, s.cause, s.faultInfo)

/-- The driver's moves: the rows of R236's table. It may make any number of them, in any order (R226). -/
inductive Move where
  | resetWithLoad (image : List Byte)
  | stepTrigger
  | press (i : Nat)
  | release (i : Nat)
  | readFramebuffer
  | readDirty
  | acknowledge
  | readFaultRegisters
  deriving DecidableEq, Repr

/-- What a move does to the block's state (R236): the reads change nothing. -/
def applyMove : Move → State → Result
  | .resetWithLoad image, _ => resetWith image
  | .stepTrigger, s => step s
  | .press i, s => driveKey i true s
  | .release i, s => driveKey i false s
  | .readFramebuffer, s => .next s
  | .readDirty, s => .next s
  | .acknowledge, s => .next s.acknowledge
  | .readFaultRegisters, s => .next s

end Sys2Proof.Machine
end

