-- ==== Sys2Proof/Safety.lean ====
section
/-! DEFINITION. The terms in which statements are made: what a frame leaves alone, what a fault leaves behind
(60_exceptions.md R222), the reads and writes of each instruction (10_state.md R39), the invariant of 10_state.md R37, and
the states a driver can bring about (R226, R236). -/

namespace Sys2Proof.Machine

open Sys2Proof

/-! ## Frames -/

/-- The pieces of state an instruction may write, `pc` apart: the writes column of R39. Memory is given as the first
address and the number of bytes. -/
structure Writes where
  regs : List Reg := []
  index : Bool := false
  stackSlot : Option Nat := none
  sp : Bool := false
  dt : Bool := false
  st : Bool := false
  fb : Bool := false
  dirty : Bool := false
  rng : Bool := false
  memFirst : Nat := 0
  memCount : Nat := 0
  deriving DecidableEq, Repr

/-- `a` is one of the bytes of memory that may be written. -/
abbrev Writes.stores (w : Writes) (a : Nat) : Prop := w.memFirst ≤ a ∧ a < w.memFirst + w.memCount

/-- From `s` to `t` nothing changes but what `w` names and `pc` (00_scope.md R9). -/
structure OnlyChanges (w : Writes) (s t : State) : Prop where
  regs : ∀ r, r ∉ w.regs → t.reg r = s.reg r
  index : w.index = false → t.index = s.index
  stack : ∀ (k : Nat) (h : k < 16), w.stackSlot ≠ some k → t.stack[k] = s.stack[k]
  sp : w.sp = false → t.sp = s.sp
  dt : w.dt = false → t.dt = s.dt
  st : w.st = false → t.st = s.st
  keys : t.keys = s.keys
  fb : w.fb = false → t.fb = s.fb
  dirty : w.dirty = false → t.dirty = s.dirty
  rng : w.rng = false → t.rng = s.rng
  mem : ∀ a, ¬ w.stores a → t.mem.read a = s.mem.read a
  status : t.status = s.status
  cause : t.cause = s.cause
  faultInfo : t.faultInfo = s.faultInfo

/-- From `s` to `t` a fault was raised with this code and information, and nothing else changed (R222). -/
structure FaultRaised (code : Nat) (info : Word) (s t : State) : Prop where
  status : t.status = .faulted
  cause : t.cause.toNat = code
  faultInfo : t.faultInfo = info
  v : t.v = s.v
  pc : t.pc = s.pc
  index : t.index = s.index
  stack : t.stack = s.stack
  sp : t.sp = s.sp
  dt : t.dt = s.dt
  st : t.st = s.st
  keys : t.keys = s.keys
  fb : t.fb = s.fb
  dirty : t.dirty = s.dirty
  rng : t.rng = s.rng
  mem : t.mem = s.mem

/-- From `s` to `t` nothing changes but the two timers, which end with the given values. -/
structure OnlyTimers (dt st : Nat) (s t : State) : Prop where
  dt : t.dt.toNat = dt
  st : t.st.toNat = st
  v : t.v = s.v
  pc : t.pc = s.pc
  index : t.index = s.index
  stack : t.stack = s.stack
  sp : t.sp = s.sp
  keys : t.keys = s.keys
  fb : t.fb = s.fb
  dirty : t.dirty = s.dirty
  rng : t.rng = s.rng
  mem : t.mem = s.mem
  status : t.status = s.status
  cause : t.cause = s.cause
  faultInfo : t.faultInfo = s.faultInfo

/-! ## Fetch -/

/-- The machine runs and its next step fetches `op`: `pc` and `pc + 1` are addresses, and the byte at `pc` is the high one
(20_memory.md R65). -/
structure Fetches (s : State) (op : Word) : Prop where
  running : s.status = .running
  pc : s.pc.toNat ≤ 0xFFE
  bytes : op.toNat = (s.mem.read s.pc.toNat).toNat * 256 + (s.mem.read (s.pc.toNat + 1)).toNat

/-- The next step fetches `op`, which decodes to `i`. -/
structure Executes (s : State) (op : Word) (i : Instr) : Prop where
  fetches : Fetches s op
  decodes : decode op = .ok i

/-! ## What each instruction reads and writes (R39) -/

/-- `V[0]` to `V[x]`. -/
def regsTo (x : Reg) : List Reg := (List.finRange 16).filter (fun r => decide (r ≤ x))

/-- The writes column of R39. -/
def writesOf : Instr → State → Writes
  | .cls, _ => { fb := true, dirty := true }
  | .ret, _ => { sp := true }
  | .jp _, _ => {}
  | .call _, s => { stackSlot := some s.sp.val, sp := true }
  | .sei _ _, _ => {}
  | .snei _ _, _ => {}
  | .ser _ _, _ => {}
  | .ldi x _, _ => { regs := [x] }
  | .addi x _, _ => { regs := [x] }
  | .mov x _, _ => { regs := [x] }
  | .or x _, _ => { regs := [x] }
  | .and x _, _ => { regs := [x] }
  | .xor x _, _ => { regs := [x] }
  | .add x _, _ => { regs := [x, flagReg] }
  | .sub x _, _ => { regs := [x, flagReg] }
  | .shr x _, _ => { regs := [x, flagReg] }
  | .subn x _, _ => { regs := [x, flagReg] }
  | .shl x _, _ => { regs := [x, flagReg] }
  | .sner _ _, _ => {}
  | .ldidx _, _ => { index := true }
  | .jpb _, _ => {}
  | .rnd x _, _ => { regs := [x], rng := true }
  | .drw _ _ _, _ => { regs := [flagReg], fb := true, dirty := true }
  | .skp _, _ => {}
  | .sknp _, _ => {}
  | .lddt x, _ => { regs := [x] }
  | .waitk x, s => if ∃ i : Key, s.key i = true then { regs := [x] } else {}
  | .stdt _, _ => { dt := true }
  | .stst _, _ => { st := true }
  | .addidx _, _ => { index := true }
  | .glyph _, _ => { index := true }
  | .bcd _, s => { memFirst := s.index.toNat, memCount := 3 }
  | .stm x, s => { memFirst := s.index.toNat, memCount := x.val + 1 }
  | .ldm x, _ => { regs := regsTo x }

/-- The reads column of R39; `pc`, which every instruction but a jump uses for its own update, apart. -/
structure Reads where
  regs : List Reg := []
  index : Bool := false
  sp : Bool := false
  stackTop : Bool := false
  dt : Bool := false
  keys : List Key := []
  fb : Bool := false
  rng : Bool := false
  memFirst : Nat := 0
  memCount : Nat := 0
  deriving DecidableEq, Repr

/-- The key that `V[x]` names, if it names one. -/
def keyRead (x : Reg) (s : State) : List Key := (keyIndex (s.reg x)).toList

/-- The reads column of R39. -/
def readsOf : Instr → State → Reads
  | .cls, _ => {}
  | .ret, _ => { sp := true, stackTop := true }
  | .jp _, _ => {}
  | .call _, _ => { sp := true }
  | .sei x _, _ => { regs := [x] }
  | .snei x _, _ => { regs := [x] }
  | .ser x y, _ => { regs := [x, y] }
  | .ldi _ _, _ => {}
  | .addi x _, _ => { regs := [x] }
  | .mov _ y, _ => { regs := [y] }
  | .or x y, _ => { regs := [x, y] }
  | .and x y, _ => { regs := [x, y] }
  | .xor x y, _ => { regs := [x, y] }
  | .add x y, _ => { regs := [x, y] }
  | .sub x y, _ => { regs := [x, y] }
  | .shr x _, _ => { regs := [x] }
  | .subn x y, _ => { regs := [x, y] }
  | .shl x _, _ => { regs := [x] }
  | .sner x y, _ => { regs := [x, y] }
  | .ldidx _, _ => {}
  | .jpb _, _ => {}
  | .rnd _ _, _ => { rng := true }
  | .drw x y n, s => { regs := [x, y], index := true, fb := true, memFirst := s.index.toNat, memCount := n.val }
  | .skp x, s => { regs := [x], keys := keyRead x s }
  | .sknp x, s => { regs := [x], keys := keyRead x s }
  | .lddt _, _ => { dt := true }
  | .waitk _, _ => { keys := List.finRange 16 }
  | .stdt x, _ => { regs := [x] }
  | .stst x, _ => { regs := [x] }
  | .addidx x, _ => { regs := [x], index := true }
  | .glyph x, _ => { regs := [x] }
  | .bcd x, _ => { regs := [x], index := true }
  | .stm x, _ => { regs := regsTo x, index := true }
  | .ldm x, s => { index := true, memFirst := s.index.toNat, memCount := x.val + 1 }

/-- The two states hold the same in every piece that `r` names, and the same `pc`. -/
structure AgreeOnReads (r : Reads) (s₁ s₂ : State) : Prop where
  pc : s₁.pc = s₂.pc
  regs : ∀ x ∈ r.regs, s₁.reg x = s₂.reg x
  index : r.index = true → s₁.index = s₂.index
  sp : r.sp = true → s₁.sp = s₂.sp
  stackTop : r.stackTop = true →
    ∀ (k : Nat) (h : k < 16), k + 1 = s₁.sp.val → s₁.stack[k] = s₂.stack[k]
  dt : r.dt = true → s₁.dt = s₂.dt
  keys : ∀ k ∈ r.keys, s₁.key k = s₂.key k
  fb : r.fb = true → s₁.fb = s₂.fb
  rng : r.rng = true → s₁.rng = s₂.rng
  mem : ∀ a, r.memFirst ≤ a → a < r.memFirst + r.memCount → s₁.mem.read a = s₂.mem.read a

/-- The two states hold the same in every piece that `w` names. -/
structure AgreeOnWrites (w : Writes) (t₁ t₂ : State) : Prop where
  regs : ∀ x ∈ w.regs, t₁.reg x = t₂.reg x
  index : w.index = true → t₁.index = t₂.index
  stack : ∀ (k : Nat) (h : k < 16), w.stackSlot = some k → t₁.stack[k] = t₂.stack[k]
  sp : w.sp = true → t₁.sp = t₂.sp
  dt : w.dt = true → t₁.dt = t₂.dt
  st : w.st = true → t₁.st = t₂.st
  fb : w.fb = true → t₁.fb = t₂.fb
  dirty : w.dirty = true → t₁.dirty = t₂.dirty
  rng : w.rng = true → t₁.rng = t₂.rng
  mem : ∀ a, w.stores a → t₁.mem.read a = t₂.mem.read a

/-! ## The sprite (44_display.md R181, R183) -/

/-- A sprite bit of 1 of `bytes`, drawn at `(px, py)`, lands on `FB[i]`. -/
abbrev spriteCovers (px py : Nat) (bytes : List Byte) (i : Fin 2048) : Prop :=
  ∃ row : Fin bytes.length, ∃ col : Fin 8,
    (bytes[row.val]).getLsbD (7 - col.val) = true ∧
      i.val = (py + row.val) % 32 * 64 + (px + col.val) % 64

/-! ## The invariant (R37) -/

/-- What holds in every reachable state (R37), with the form of a clean running state (R210, code 0) and the canonical form
of memory. The other bounds of R37 (`SP`, cells, keys, widths) are carried by the types of the fields. -/
structure Inv (s : State) : Prop where
  pc : s.pc.toNat ≤ 0x1002
  faulted : s.status = .faulted ↔ s.cause ≠ 0
  cause : s.cause.toNat ≤ 6
  running : s.status = .running → s.faultInfo = 0
  stack : ∀ (k : Nat) (h : k < 16), k < s.sp.val → s.stack[k].toNat ≤ 0xFFE
  mem : s.mem.wf = true

/-- The states that reset with some image and then any moves of the driver bring about (R226, R236). -/
inductive Reachable : State → Prop where
  | reset (image : List Byte) (t : State) (h : resetWith image = .next t) : Reachable t
  | move (m : Move) (s t : State) (hs : Reachable s) (h : applyMove m s = .next t) : Reachable t

end Sys2Proof.Machine
end

