-- ==== Sys2Proof/WellFormed.lean ====
section
/-! DEFINITION. Well-formedness. An `Instr` is well formed by its types; the checks stand on the assembler line of
30_encoding.md R100, whose operands are plain numbers: the mnemonic is one of the 34, the operands have the kinds of its
form, and each number is in the range of its field. -/

namespace Sys2Proof

/-- An operand as an assembler line writes it (R100): a register number, `kk`, `nnn` or `n`, not yet checked. -/
inductive Operand where
  | reg (r : Nat)
  | imm (kk : Nat)
  | addr (nnn : Nat)
  | rows (n : Nat)
  deriving DecidableEq, Repr

/-- One assembler line, `MNEMONIC operands` (R100), not yet checked. -/
structure AsmLine where
  mnemonic : String
  operands : List Operand
  deriving DecidableEq, Repr

/-- The ranges of R100: `V0` to `VF`, `0x00` to `0xFF`, `0x000` to `0xFFF`, `0` to `15`. -/
def Operand.inRange : Operand → Bool
  | .reg r => decide (r < 16)
  | .imm kk => decide (kk < 256)
  | .addr nnn => decide (nnn < 4096)
  | .rows n => decide (n < 16)

def asmNnn : List String := ["JP", "CALL", "LDIDX", "JPB"]

def asmXkk : List String := ["SEI", "SNEI", "LDI", "ADDI", "RND"]

def asmXy : List String :=
  ["SER", "MOV", "OR", "AND", "XOR", "ADD", "SUB", "SHR", "SUBN", "SHL", "SNER"]

def asmX : List String :=
  ["SKP", "SKNP", "LDDT", "WAITK", "STDT", "STST", "ADDIDX", "GLYPH", "BCD", "STM", "LDM"]

/-- The mnemonic exists and the operands have the kinds and the number of its form (R100). `SHR` takes one register too:
`SHR Vx` means `SHR Vx, V0`. R100 says so of `SHR` only. -/
def AsmLine.formOk (l : AsmLine) : Bool :=
  match l.operands with
  | [] => l.mnemonic == "CLS" || l.mnemonic == "RET"
  | [.addr _] => asmNnn.contains l.mnemonic
  | [.reg _, .imm _] => asmXkk.contains l.mnemonic
  | [.reg _, .reg _] => asmXy.contains l.mnemonic
  | [.reg _, .reg _, .rows _] => l.mnemonic == "DRW"
  | [.reg _] => asmX.contains l.mnemonic || l.mnemonic == "SHR"
  | _ => false

/-- An assembler line is well formed when its form is one of R100 and every operand is in range. -/
def AsmLine.wellFormed (l : AsmLine) : Bool :=
  l.formOk && l.operands.all Operand.inRange

/-- The operands of an instruction, in the order of the fields in its pattern (R100). -/
def Instr.operands : Instr → List Operand
  | .cls => []
  | .ret => []
  | .jp nnn => [.addr nnn.toNat]
  | .call nnn => [.addr nnn.toNat]
  | .sei x kk => [.reg x, .imm kk.toNat]
  | .snei x kk => [.reg x, .imm kk.toNat]
  | .ser x y => [.reg x, .reg y]
  | .ldi x kk => [.reg x, .imm kk.toNat]
  | .addi x kk => [.reg x, .imm kk.toNat]
  | .mov x y => [.reg x, .reg y]
  | .or x y => [.reg x, .reg y]
  | .and x y => [.reg x, .reg y]
  | .xor x y => [.reg x, .reg y]
  | .add x y => [.reg x, .reg y]
  | .sub x y => [.reg x, .reg y]
  | .shr x y => [.reg x, .reg y]
  | .subn x y => [.reg x, .reg y]
  | .shl x y => [.reg x, .reg y]
  | .sner x y => [.reg x, .reg y]
  | .ldidx nnn => [.addr nnn.toNat]
  | .jpb nnn => [.addr nnn.toNat]
  | .rnd x kk => [.reg x, .imm kk.toNat]
  | .drw x y n => [.reg x, .reg y, .rows n]
  | .skp x => [.reg x]
  | .sknp x => [.reg x]
  | .lddt x => [.reg x]
  | .waitk x => [.reg x]
  | .stdt x => [.reg x]
  | .stst x => [.reg x]
  | .addidx x => [.reg x]
  | .glyph x => [.reg x]
  | .bcd x => [.reg x]
  | .stm x => [.reg x]
  | .ldm x => [.reg x]

/-- The assembler line of an instruction (R100). -/
def Instr.asm (i : Instr) : AsmLine := { mnemonic := i.mnemonic, operands := i.operands }

/-- An instruction is well formed when its assembler line is; every instruction is (Laws/Encoding.lean). -/
def Instr.wellFormed (i : Instr) : Bool := i.asm.wellFormed

/-- A register operand as a register index. -/
def asmReg (r : Nat) : Reg := Fin.ofNat 16 r

/-- The instruction that a line with no operand or one operand stands for. -/
def assembleShort (m : String) : List Operand → Option Instr
  | [] => match m with
    | "CLS" => some .cls
    | "RET" => some .ret
    | _ => none
  | [.addr a] => match m with
    | "JP" => some (.jp (BitVec.ofNat 12 a))
    | "CALL" => some (.call (BitVec.ofNat 12 a))
    | "LDIDX" => some (.ldidx (BitVec.ofNat 12 a))
    | "JPB" => some (.jpb (BitVec.ofNat 12 a))
    | _ => none
  | [.reg x] => match m with
    | "SHR" => some (.shr (asmReg x) 0)
    | "SKP" => some (.skp (asmReg x))
    | "SKNP" => some (.sknp (asmReg x))
    | "LDDT" => some (.lddt (asmReg x))
    | "WAITK" => some (.waitk (asmReg x))
    | "STDT" => some (.stdt (asmReg x))
    | "STST" => some (.stst (asmReg x))
    | "ADDIDX" => some (.addidx (asmReg x))
    | "GLYPH" => some (.glyph (asmReg x))
    | "BCD" => some (.bcd (asmReg x))
    | "STM" => some (.stm (asmReg x))
    | "LDM" => some (.ldm (asmReg x))
    | _ => none
  | _ => none

/-- The instruction that a line with two or three operands stands for. -/
def assembleLong (m : String) : List Operand → Option Instr
  | [.reg x, .imm k] => match m with
    | "SEI" => some (.sei (asmReg x) (BitVec.ofNat 8 k))
    | "SNEI" => some (.snei (asmReg x) (BitVec.ofNat 8 k))
    | "LDI" => some (.ldi (asmReg x) (BitVec.ofNat 8 k))
    | "ADDI" => some (.addi (asmReg x) (BitVec.ofNat 8 k))
    | "RND" => some (.rnd (asmReg x) (BitVec.ofNat 8 k))
    | _ => none
  | [.reg x, .reg y] => match m with
    | "SER" => some (.ser (asmReg x) (asmReg y))
    | "MOV" => some (.mov (asmReg x) (asmReg y))
    | "OR" => some (.or (asmReg x) (asmReg y))
    | "AND" => some (.and (asmReg x) (asmReg y))
    | "XOR" => some (.xor (asmReg x) (asmReg y))
    | "ADD" => some (.add (asmReg x) (asmReg y))
    | "SUB" => some (.sub (asmReg x) (asmReg y))
    | "SHR" => some (.shr (asmReg x) (asmReg y))
    | "SUBN" => some (.subn (asmReg x) (asmReg y))
    | "SHL" => some (.shl (asmReg x) (asmReg y))
    | "SNER" => some (.sner (asmReg x) (asmReg y))
    | _ => none
  | [.reg x, .reg y, .rows n] => match m with
    | "DRW" => some (.drw (asmReg x) (asmReg y) (Fin.ofNat 16 n))
    | _ => none
  | _ => none

/-- The instruction a well-formed assembler line stands for (R100). -/
def AsmLine.assemble (l : AsmLine) : Option Instr :=
  if l.wellFormed then (assembleShort l.mnemonic l.operands).or (assembleLong l.mnemonic l.operands)
  else none

end Sys2Proof
end

