-- ==== Sys2Proof/Certificates/Slice0/Obligations.lean ====
section
/-! DEFINITION. The statements for the provers, from the numbered rules of spec/. In them `s` is the state before and `t`
the state after; every value is compared as a natural number where the spec computes with numbers. "Decision D<n>" names a
choice that the spec marks as its own (92_eei_decisions.md; log entry 10): a statement that rests on one says so.
That a raised fault is answered as a next state is log entry 4. -/

open Sys2Proof Sys2Proof.Machine

/-! ## Encoding (30_encoding.md) -/

/-- Words written out from the encodings of R95 decode to the instructions they stand for, one or more per family; the
assembler line of R100 assembles to the same instruction. -/
def Obligations.SampleWordsDecode : Prop :=
  decode 0b0000000011100000 = .ok .cls ∧ decode 0b0000000011101110 = .ok .ret ∧
  decode 0b0010101010111100 = .ok (.call 0xABC) ∧ decode 0b0011000100000000 = .ok (.sei 1 0x00) ∧
  decode 0b0110101000101100 = .ok (.ldi 0xA 0x2C) ∧ decode 0b1000000100100100 = .ok (.add 1 2) ∧
  decode 0b1000001101001110 = .ok (.shl 3 4) ∧ decode 0b1010111111111111 = .ok (.ldidx 0xFFF) ∧
  decode 0b1100001100001111 = .ok (.rnd 3 0x0F) ∧ decode 0b1101000000010010 = .ok (.drw 0 1 2) ∧
  decode 0b1110001010011110 = .ok (.skp 2) ∧ decode 0b1111001000001010 = .ok (.waitk 2) ∧
  decode 0b1111000000010101 = .ok (.stdt 0) ∧ decode 0b1111001001100101 = .ok (.ldm 2) ∧
  decode 0x0000 = .error (.unrecognized 0x0000) ∧
  (AsmLine.mk "ADD" [.reg 1, .reg 2]).assemble = some (.add 1 2) ∧
  (AsmLine.mk "SHR" [.reg 3]).assemble = some (.shr 3 0)

/-- Decoding the opcode of any instruction gives that instruction back, with every operand at every value; so do its two
bytes, high byte first, in front of any others. -/
def Obligations.DecodeOfEncodeIsIdentity : Prop :=
  ∀ i : Instr, decode (encode i) = .ok i ∧
    ∀ rest : List Byte, decodeBytes (encodeBytes i ++ rest) = .ok (i, rest)

/-- An opcode that decodes is the opcode of the instruction it decodes to: no bit is dropped, the ignored `y` of the shifts
among them. -/
def Obligations.EncodeOfDecodeIsIdentity : Prop :=
  ∀ (op : Word) (i : Instr), decode op = .ok i → encode i = op

/-- R103, which the spec derives from R95: no 16-bit value matches two rows of the opcode map; there are 34 rows, none twice. -/
def Obligations.OpcodeMapRowsAreDisjoint : Prop :=
  opcodeMap.length = 34 ∧ opcodeMap.Nodup ∧
  ∀ op : Word, ∀ r₁ ∈ opcodeMap, ∀ r₂ ∈ opcodeMap,
    op &&& r₁.mask = r₁.value → op &&& r₂.mask = r₂.value → r₁ = r₂

/-- R94: an instruction is selected exactly when `(op AND mask) = match` for its row, and an opcode that no row matches is
rejected under its own value. -/
def Obligations.DecodeSelectsTheMatchingRow : Prop :=
  ∀ op : Word,
    (∀ i, decode op = .ok i → ∃ r ∈ opcodeMap, r.mnemonic = i.mnemonic ∧ op &&& r.mask = r.value) ∧
    (∀ r ∈ opcodeMap, op &&& r.mask = r.value → ∃ i, decode op = .ok i ∧ i.mnemonic = r.mnemonic) ∧
    ((∀ r ∈ opcodeMap, op &&& r.mask ≠ r.value) → decode op = .error (.unrecognized op))

/-- R96, R97: the unrecognised encodings are those of R96's table, which the spec derives from R95, and no others.
Here `op / 4096` is the first nibble, `op % 16` the last and `op % 256` the low byte. -/
def Obligations.UnrecognizedOpcodesAreTheListed : Prop :=
  ∀ op : Word, decode op = .error (.unrecognized op) ↔
    (op.toNat / 4096 = 0x0 ∧ op.toNat ≠ 0x00E0 ∧ op.toNat ≠ 0x00EE) ∨
    (op.toNat / 4096 = 0x5 ∧ op.toNat % 16 ≠ 0) ∨
    (op.toNat / 4096 = 0x8 ∧ op.toNat % 16 ∈ [0x8, 0x9, 0xA, 0xB, 0xC, 0xD, 0xF]) ∨
    (op.toNat / 4096 = 0x9 ∧ op.toNat % 16 ≠ 0) ∨
    (op.toNat / 4096 = 0xE ∧ op.toNat % 256 ∉ [0x9E, 0xA1]) ∨
    (op.toNat / 4096 = 0xF ∧ op.toNat % 256 ∉ [0x07, 0x0A, 0x15, 0x18, 0x1E, 0x29, 0x33, 0x55, 0x65])

/-- R96's count, which the spec derives from R95: exactly 21582 of the 65536 values are unrecognised. -/
def Obligations.UnrecognizedOpcodeCount : Prop :=
  ((List.range 65536).filter (fun w => (decodeTableWord 16 w).isNone)).length = 21582

/-! ## The step (40_control_flow.md R120 to R124) -/

/-- R121: when the fetched bits decode to `i`, the step is exactly what `exec i` does: if that ends without a fault, the timers
then tick (in that order: decision D16) and nothing else changes; if it ends in a fault, that state is the answer. -/
def Obligations.StepRunsTheDecodedInstruction : Prop :=
  ∀ (s : State) (op : Word) (i : Instr), Executes s op i →
    ∃ u, exec i s = .next u ∧
      (u.status = .running → ∃ t, step s = .next t ∧ OnlyTimers (u.dt.toNat - 1) (u.st.toNat - 1) u t) ∧
      (u.status = .faulted → step s = .next u)

/-- R120: from every running state the step has an outcome, "either the next state or a fault". That a fault is answered as a
next state too is the model's rendering (log entry 4, DEDUCED): so rendered, a running machine always answers a next state. -/
def Obligations.RunningMachineAlwaysSteps : Prop :=
  ∀ s : State, s.status = .running → ∃ t, step s = .next t

/-- R211, R254: fetched bits that match no row raise UnrecognizedOpcode with those bits, and the empty image does so on its
first step, at 0x0200. Codes and rollback: decisions D7, D6. -/
def Obligations.UnrecognizedOpcodeFaults : Prop :=
  (∀ (s : State) (op : Word), Fetches s op → (∀ r ∈ opcodeMap, op &&& r.mask ≠ r.value) →
    ∃ t, step s = .next t ∧ FaultRaised 1 op s t) ∧
  ∃ s t, resetWith [] = .next s ∧ step s = .next t ∧ FaultRaised 1 0x0000 s t ∧ t.pc.toNat = 0x0200

/-- R215: a step that begins with `pc > 0xFFE` raises FetchOutOfRange, whatever memory holds; `pc` keeps its
value (decision D4). -/
def Obligations.FetchBeyondMemoryFaults : Prop :=
  ∀ s : State, s.status = .running → 0xFFE < s.pc.toNat →
    ∃ t, step s = .next t ∧ FaultRaised 5 s.pc s t

/-- R123, R222: a step that faults leaves everything as it was before it but the three fault registers; no tick
(decisions D6, D7). -/
def Obligations.FaultingStepChangesOnlyFaultRegisters : Prop :=
  ∀ s t : State, step s = .next t → t.status = .faulted →
    FaultRaised t.cause.toNat t.faultInfo s t ∧ t.cause ≠ 0

/-- R218, R210: which faults a step can end in, with their codes and information; the other 26 instructions raise nothing
(decisions D4, D7, D8; R218 is the spec's own derivation). -/
def Obligations.RaisedFaultsAreTheListed : Prop :=
  ∀ s t : State, step s = .next t → t.status = .faulted →
    (0xFFE < s.pc.toNat ∧ t.cause.toNat = 5 ∧ t.faultInfo = s.pc) ∨
    (∃ op, Fetches s op ∧ decode op = .error (.unrecognized op) ∧ t.cause.toNat = 1 ∧ t.faultInfo = op) ∨
    (∃ op i, Executes s op i ∧
      ((∃ nnn, i = .call nnn ∧ s.sp.val = 16 ∧ t.cause.toNat = 2 ∧ t.faultInfo = s.pc) ∨
       (i = .ret ∧ s.sp.val = 0 ∧ t.cause.toNat = 3 ∧ t.faultInfo = s.pc) ∨
       (((∃ x y n, i = .drw x y n) ∨ ∃ x, i = .bcd x ∨ i = .stm x ∨ i = .ldm x) ∧
         t.cause.toNat = 4 ∧ t.faultInfo = s.index) ∨
       (∃ x, (i = .skp x ∨ i = .sknp x) ∧ 15 < (s.reg x).toNat ∧
         t.cause.toNat = 6 ∧ t.faultInfo.toNat = (s.reg x).toNat)))

/-- R124, R224: in the FAULTED state there is no step, and no move of the driver but reset leaves it or changes anything but
the keys and `dirty` (decision D7; log entries 4 and 6: how the model renders it). -/
def Obligations.FaultedIsLeftOnlyByReset : Prop :=
  ∀ s : State, s.status = .faulted →
    (∀ t, step s ≠ .next t) ∧
    ∀ (m : Move) (t : State), applyMove m s = .next t →
      (∃ image, m = .resetWithLoad image) ∨
      (OnlyChanges { dirty := true } { s with keys := t.keys } t ∧ t.pc = s.pc)

/-- R200, R204: every step that does not fault ticks both timers once, saturating at 0, after the instruction's own write to
them: a timer just loaded with `V[x]` ends one below it (decision D16). -/
def Obligations.TimersTickOncePerStep : Prop :=
  ∀ (s t : State) (op : Word) (i : Instr), Executes s op i → step s = .next t → t.status = .running →
    t.dt.toNat = (match i with | .stdt x => (s.reg x).toNat | _ => s.dt.toNat) - 1 ∧
    t.st.toNat = (match i with | .stst x => (s.reg x).toNat | _ => s.st.toNat) - 1

/-! ## Control flow (40_control_flow.md R130 to R137) -/

/-- R131, R137: `JP` and `JPB` set `pc` to `nnn` and change nothing else; `JPB` adds no register. -/
def Obligations.JumpsSetThePc : Prop :=
  ∀ (nnn : Addr12) (s : State),
    (decode (formatNnn 0x1 nnn) = .ok (.jp nnn) ∧
      ∃ t, exec (.jp nnn) s = .next t ∧ t.pc.toNat = nnn.toNat ∧ OnlyChanges {} s t) ∧
    (decode (formatNnn 0xB nnn) = .ok (.jpb nnn) ∧
      ∃ t, exec (.jpb nnn) s = .next t ∧ t.pc.toNat = nnn.toNat ∧ OnlyChanges {} s t)

/-- R132, R212: `CALL` pushes its own address, counts the slot and jumps; with 16 slots occupied it raises StackOverflow
(code and rollback: decisions D7, D6). -/
def Obligations.CallPushesItsOwnAddress : Prop :=
  ∀ (nnn : Addr12) (s : State),
    decode (formatNnn 0x2 nnn) = .ok (.call nnn) ∧
    (∀ h : s.sp.val < 16, ∃ t, exec (.call nnn) s = .next t ∧
      t.stack[s.sp.val] = s.pc ∧ t.sp.val = s.sp.val + 1 ∧ t.pc.toNat = nnn.toNat ∧
      OnlyChanges { stackSlot := some s.sp.val, sp := true } s t) ∧
    (s.sp.val = 16 → ∃ t, exec (.call nnn) s = .next t ∧ FaultRaised 2 s.pc s t)

/-- R130, R213: `RET` uncounts the top slot, which keeps its contents, and goes to the address in it plus 2; with no slot
occupied it raises StackUnderflow (code and rollback: decisions D7, D6). -/
def Obligations.ReturnResumesAfterTheCall : Prop :=
  ∀ s : State,
    decode 0x00EE = .ok .ret ∧
    (∀ (k : Nat) (h : k < 16), s.sp.val = k + 1 → ∃ t, exec .ret s = .next t ∧
      t.sp.val = k ∧ t.pc = s.stack[k] + 2 ∧ OnlyChanges { sp := true } s t) ∧
    (s.sp.val = 0 → ∃ t, exec .ret s = .next t ∧ FaultRaised 3 s.pc s t)

/-- The property of the source that R130 quotes: a `CALL` followed at its target by a `RET` leaves `pc` at the
call's address plus 2, and the stack at its depth before the call. -/
def Obligations.CallThenReturnComesBack : Prop :=
  ∀ (s : State) (op : Word) (nnn : Addr12), Executes s op (.call nnn) → s.sp.val < 16 → nnn.toNat ≤ 0xFFE →
    s.mem.read nnn.toNat = 0x00 → s.mem.read (nnn.toNat + 1) = 0xEE →
    ∃ t u, step s = .next t ∧ step t = .next u ∧ t.pc.toNat = nnn.toNat ∧ t.sp.val = s.sp.val + 1 ∧
      u.pc.toNat = s.pc.toNat + 2 ∧ u.sp = s.sp ∧ u.status = .running

/-- R133, R134: the skips that compare `V[x]` with `kk` advance `pc` by 4 if the condition holds and by 2 if not, and write
nothing else. -/
def Obligations.SkipsCompareWithImmediate : Prop :=
  ∀ (x : Reg) (kk : Byte) (s : State),
    (decode (formatXkk 0x3 x kk) = .ok (.sei x kk) ∧
      ∃ t, exec (.sei x kk) s = .next t ∧ OnlyChanges {} s t ∧
        t.pc = s.pc + (if (s.reg x).toNat = kk.toNat then 4 else 2)) ∧
    (decode (formatXkk 0x4 x kk) = .ok (.snei x kk) ∧
      ∃ t, exec (.snei x kk) s = .next t ∧ OnlyChanges {} s t ∧
        t.pc = s.pc + (if (s.reg x).toNat = kk.toNat then 2 else 4))

/-- R135, R136: the skips that compare `V[x]` with `V[y]`; with another minor opcode neither is an instruction. -/
def Obligations.SkipsCompareRegisters : Prop :=
  ∀ (x y : Reg) (s : State),
    (∀ n : Nibble, n ≠ 0 → decode (formatXyn 0x5 x y n) = .error (.unrecognized (formatXyn 0x5 x y n)) ∧
      decode (formatXyn 0x9 x y n) = .error (.unrecognized (formatXyn 0x9 x y n))) ∧
    (decode (formatXyn 0x5 x y 0x0) = .ok (.ser x y) ∧
      ∃ t, exec (.ser x y) s = .next t ∧ OnlyChanges {} s t ∧
        t.pc = s.pc + (if (s.reg x).toNat = (s.reg y).toNat then 4 else 2)) ∧
    (decode (formatXyn 0x9 x y 0x0) = .ok (.sner x y) ∧
      ∃ t, exec (.sner x y) s = .next t ∧ OnlyChanges {} s t ∧
        t.pc = s.pc + (if (s.reg x).toNat = (s.reg y).toNat then 2 else 4))

/-! ## Register and ALU (41_register_alu.md) -/

/-- R140, R142: `LDI` and `MOV` load one register; nothing else changes, the flag register included unless it is `x`. -/
def Obligations.LoadImmediateAndMove : Prop :=
  ∀ (x y : Reg) (kk : Byte) (s : State),
    (decode (formatXkk 0x6 x kk) = .ok (.ldi x kk) ∧
      ∃ t, exec (.ldi x kk) s = .next t ∧ t.reg x = kk ∧ t.pc = s.pc + 2 ∧ OnlyChanges { regs := [x] } s t) ∧
    (decode (formatXyn 0x8 x y 0x0) = .ok (.mov x y) ∧
      ∃ t, exec (.mov x y) s = .next t ∧ t.reg x = s.reg y ∧ t.pc = s.pc + 2 ∧ OnlyChanges { regs := [x] } s t)

/-- R141: `ADDI` adds with wrap-around and sets no flag. -/
def Obligations.AddImmediateWrapsWithoutFlag : Prop :=
  ∀ (x : Reg) (kk : Byte) (s : State),
    decode (formatXkk 0x7 x kk) = .ok (.addi x kk) ∧
    ∃ t, exec (.addi x kk) s = .next t ∧ (t.reg x).toNat = ((s.reg x).toNat + kk.toNat) % 256 ∧
      t.pc = s.pc + 2 ∧ OnlyChanges { regs := [x] } s t

/-- R143, R144, R145: OR, AND and XOR act on each bit position; none writes the flag register unless it is `x`. -/
def Obligations.BitwiseOperationsActPerBit : Prop :=
  ∀ (x y : Reg) (s : State),
    (decode (formatXyn 0x8 x y 0x1) = .ok (.or x y) ∧ decode (formatXyn 0x8 x y 0x2) = .ok (.and x y) ∧
      decode (formatXyn 0x8 x y 0x3) = .ok (.xor x y)) ∧
    (∃ t, exec (.or x y) s = .next t ∧ t.pc = s.pc + 2 ∧ OnlyChanges { regs := [x] } s t ∧
      ∀ k < 8, (t.reg x).getLsbD k = ((s.reg x).getLsbD k || (s.reg y).getLsbD k)) ∧
    (∃ t, exec (.and x y) s = .next t ∧ t.pc = s.pc + 2 ∧ OnlyChanges { regs := [x] } s t ∧
      ∀ k < 8, (t.reg x).getLsbD k = ((s.reg x).getLsbD k && (s.reg y).getLsbD k)) ∧
    (∃ t, exec (.xor x y) s = .next t ∧ t.pc = s.pc + 2 ∧ OnlyChanges { regs := [x] } s t ∧
      ∀ k < 8, (t.reg x).getLsbD k = ((s.reg x).getLsbD k != (s.reg y).getLsbD k))

/-- R146, R152: `ADD` keeps the low 8 bits of the sum and the flag register ends as the carry, also when it is `x`. -/
def Obligations.AddSetsCarry : Prop :=
  ∀ (x y : Reg) (s : State),
    decode (formatXyn 0x8 x y 0x4) = .ok (.add x y) ∧
    ∃ t, exec (.add x y) s = .next t ∧
      (x ≠ 15 → (t.reg x).toNat = ((s.reg x).toNat + (s.reg y).toNat) % 256) ∧
      (t.reg 15).toNat = (if 255 < (s.reg x).toNat + (s.reg y).toNat then 1 else 0) ∧
      t.pc = s.pc + 2 ∧ OnlyChanges { regs := [x, 15] } s t

/-- R147, R149, R152: `SUB` and `SUBN` wrap modulo 256 and the flag register ends as 1 exactly when there is no borrow. -/
def Obligations.SubtractionsSetNoBorrow : Prop :=
  ∀ (x y : Reg) (s : State),
    (decode (formatXyn 0x8 x y 0x5) = .ok (.sub x y) ∧
      ∃ t, exec (.sub x y) s = .next t ∧
        (x ≠ 15 → (t.reg x).toNat = ((s.reg x).toNat + 256 - (s.reg y).toNat) % 256) ∧
        (t.reg 15).toNat = (if (s.reg y).toNat ≤ (s.reg x).toNat then 1 else 0) ∧
        t.pc = s.pc + 2 ∧ OnlyChanges { regs := [x, 15] } s t) ∧
    (decode (formatXyn 0x8 x y 0x7) = .ok (.subn x y) ∧
      ∃ t, exec (.subn x y) s = .next t ∧
        (x ≠ 15 → (t.reg x).toNat = ((s.reg y).toNat + 256 - (s.reg x).toNat) % 256) ∧
        (t.reg 15).toNat = (if (s.reg x).toNat ≤ (s.reg y).toNat then 1 else 0) ∧
        t.pc = s.pc + 2 ∧ OnlyChanges { regs := [x, 15] } s t)

/-- R148, R150, R152, R98: the shifts move `V[x]` by one bit, the bit moved out ends in the flag register, and `y` does not
matter. -/
def Obligations.ShiftsMoveOneBitAndIgnoreY : Prop :=
  ∀ (x y : Reg) (s : State),
    (decode (formatXyn 0x8 x y 0x6) = .ok (.shr x y) ∧ (∀ y', exec (.shr x y) s = exec (.shr x y') s) ∧
      ∃ t, exec (.shr x y) s = .next t ∧
        (x ≠ 15 → (t.reg x).toNat = (s.reg x).toNat / 2) ∧ (t.reg 15).toNat = (s.reg x).toNat % 2 ∧
        t.pc = s.pc + 2 ∧ OnlyChanges { regs := [x, 15] } s t) ∧
    (decode (formatXyn 0x8 x y 0xE) = .ok (.shl x y) ∧ (∀ y', exec (.shl x y) s = exec (.shl x y') s) ∧
      ∃ t, exec (.shl x y) s = .next t ∧
        (x ≠ 15 → (t.reg x).toNat = 2 * (s.reg x).toNat % 256) ∧ (t.reg 15).toNat = (s.reg x).toNat / 128 ∧
        t.pc = s.pc + 2 ∧ OnlyChanges { regs := [x, 15] } s t)

/-- R21: exactly six instructions write `V[15]` as a flag, always 0x00 or 0x01; any other instruction leaves it alone unless
it is the destination (of a load of a range: unless it is in the range). The closed world is decision D1. -/
def Obligations.FlagRegisterWriters : Prop :=
  ∀ (i : Instr) (s t : State), s.status = .running → exec i s = .next t → t.status = .running →
    match i with
    | .add _ _ | .sub _ _ | .subn _ _ | .shr _ _ | .shl _ _ | .drw _ _ _ => (t.reg 15).toNat ≤ 1
    | .ldi x _ | .addi x _ | .mov x _ | .or x _ | .and x _ | .xor x _ | .rnd x _ | .lddt x | .waitk x | .ldm x =>
      x ≠ 15 → t.reg 15 = s.reg 15
    | _ => t.reg 15 = s.reg 15

/-! ## Index register and memory (42_index_and_memory.md) -/

/-- R160: `LDIDX` loads `I` with its address. -/
def Obligations.LoadIndexTakesTheAddress : Prop :=
  ∀ (nnn : Addr12) (s : State),
    decode (formatNnn 0xA nnn) = .ok (.ldidx nnn) ∧
    ∃ t, exec (.ldidx nnn) s = .next t ∧ t.index.toNat = nnn.toNat ∧ t.index.toNat ≤ 0xFFF ∧
      t.pc = s.pc + 2 ∧ OnlyChanges { index := true } s t

/-- R162: `GLYPH` loads `I` with `0x50 + 5 × V[x]`, on the whole byte (above 15: decision D9). -/
def Obligations.GlyphAddressIsFiveTimesTheDigit : Prop :=
  ∀ (x : Reg) (s : State),
    decode (formatXkk 0xF x 0x29) = .ok (.glyph x) ∧
    ∃ t, exec (.glyph x) s = .next t ∧ t.index.toNat = 0x50 + 5 * (s.reg x).toNat ∧
      t.pc = s.pc + 2 ∧ OnlyChanges { index := true } s t

/-- R161: `ADDIDX` adds in 16 bits with wrap-around; no flag, no fault, whatever the sum (a sum of
65536 or more: decision D3). -/
def Obligations.AddToIndexWraps : Prop :=
  ∀ (x : Reg) (s : State),
    decode (formatXkk 0xF x 0x1E) = .ok (.addidx x) ∧
    ∃ t, exec (.addidx x) s = .next t ∧ t.index.toNat = (s.index.toNat + (s.reg x).toNat) % 65536 ∧
      t.pc = s.pc + 2 ∧ OnlyChanges { index := true } s t

/-- R163, R166: `BCD` stores hundreds, tens and units at `I`, `I + 1`, `I + 2`; out of range it stores nothing and faults
(code and rollback: decisions D7, D6). -/
def Obligations.BcdStoresDecimalDigits : Prop :=
  ∀ (x : Reg) (s : State),
    decode (formatXkk 0xF x 0x33) = .ok (.bcd x) ∧
    (s.index.toNat + 2 < 4096 → ∃ t, exec (.bcd x) s = .next t ∧
      (t.mem.read s.index.toNat).toNat = (s.reg x).toNat / 100 ∧
      (t.mem.read (s.index.toNat + 1)).toNat = (s.reg x).toNat / 10 % 10 ∧
      (t.mem.read (s.index.toNat + 2)).toNat = (s.reg x).toNat % 10 ∧
      t.pc = s.pc + 2 ∧ OnlyChanges { memFirst := s.index.toNat, memCount := 3 } s t) ∧
    (4096 ≤ s.index.toNat + 2 → ∃ t, exec (.bcd x) s = .next t ∧ FaultRaised 4 s.index s t)

/-- R164, R166: `STM` stores `V[0]` to `V[x]` at `I` and up and leaves `I` alone (decision D1); out of range it stores nothing
and faults (code and rollback: decisions D7, D6). -/
def Obligations.StoreRegisterRange : Prop :=
  ∀ (x : Reg) (s : State),
    decode (formatXkk 0xF x 0x55) = .ok (.stm x) ∧
    (s.index.toNat + x.val < 4096 → ∃ t, exec (.stm x) s = .next t ∧
      (∀ r : Reg, r ≤ x → t.mem.read (s.index.toNat + r.val) = s.reg r) ∧
      t.pc = s.pc + 2 ∧ OnlyChanges { memFirst := s.index.toNat, memCount := x.val + 1 } s t) ∧
    (4096 ≤ s.index.toNat + x.val → ∃ t, exec (.stm x) s = .next t ∧ FaultRaised 4 s.index s t)

/-- R165, R166: `LDM` loads `V[0]` to `V[x]` from `I` and up; registers above `x`, memory and `I` are unchanged (decision D1);
out of range no register is written and it faults (code and rollback: decisions D7, D6). -/
def Obligations.LoadRegisterRange : Prop :=
  ∀ (x : Reg) (s : State),
    decode (formatXkk 0xF x 0x65) = .ok (.ldm x) ∧
    (s.index.toNat + x.val < 4096 → ∃ t, exec (.ldm x) s = .next t ∧
      (∀ r : Reg, r ≤ x → t.reg r = s.mem.read (s.index.toNat + r.val)) ∧
      t.pc = s.pc + 2 ∧ OnlyChanges { regs := regsTo x } s t) ∧
    (4096 ≤ s.index.toNat + x.val → ∃ t, exec (.ldm x) s = .next t ∧ FaultRaised 4 s.index s t)

/-- R214: the four data accesses fault exactly when the last address of their range is 4096 or more, and then nothing but
the fault registers changes (decisions D6, D7). A sprite of no rows has no range (decision D15). -/
def Obligations.RangeFaultsAreAllOrNothing : Prop :=
  ∀ (x y : Reg) (n : RowCount) (s : State), s.status = .running →
    (∃ t, exec (.bcd x) s = .next t ∧
      if 4096 ≤ s.index.toNat + 2 then FaultRaised 4 s.index s t else t.status = .running) ∧
    (∃ t, exec (.stm x) s = .next t ∧
      if 4096 ≤ s.index.toNat + x.val then FaultRaised 4 s.index s t else t.status = .running) ∧
    (∃ t, exec (.ldm x) s = .next t ∧
      if 4096 ≤ s.index.toNat + x.val then FaultRaised 4 s.index s t else t.status = .running) ∧
    (∃ t, exec (.drw x y n) s = .next t ∧
      if 0 < n.val ∧ 4096 ≤ s.index.toNat + n.val - 1 then FaultRaised 4 s.index s t else t.status = .running)

/-- R77, R65: bytes that `STM` stores right after itself are the next opcode, `V[0]` its high byte (decision D13). -/
def Obligations.StoreIsSeenByTheNextFetch : Prop :=
  ∀ (s : State) (op op' : Word) (x : Reg), Executes s op (.stm x) →
    1 ≤ x.val → s.index.toNat = s.pc.toNat + 2 → s.index.toNat + x.val < 4096 →
    op'.toNat = (s.reg 0).toNat * 256 + (s.reg 1).toNat →
    ∃ t, step s = .next t ∧ Fetches t op'

/-! ## Random (43_random.md) -/

/-- R172, and R173's pseudocode: `RND` draws eight bits, the first drawn is bit 0 of the byte, and loads the byte AND `kk`; the
generator is eight bit steps further. For whatever bit step the open parameter is, and every state of the generator. -/
def Obligations.RandomLoadsEightDrawnBits : Prop :=
  ∀ (x : Reg) (kk : Byte) (s : State),
    decode (formatXkk 0xC x kk) = .ok (.rnd x kk) ∧
    ∃ t, exec (.rnd x kk) s = .next t ∧
      t.rng = (fun r => (Config.rngStep r).1)^[8] s.rng ∧
      (∀ k < 8, (t.reg x).getLsbD k =
        ((Config.rngStep ((fun r => (Config.rngStep r).1)^[k] s.rng)).2 && kk.getLsbD k)) ∧
      t.pc = s.pc + 2 ∧ OnlyChanges { regs := [x], rng := true } s t

/-- R170, R174: nothing but an executed `RND` advances the generator, and it does so by eight bit steps that depend on the
generator's state alone. -/
def Obligations.OnlyRandomAdvancesTheGenerator : Prop :=
  ∀ s t : State, step s = .next t →
    t.rng = s.rng ∨
    (∃ op x kk, Executes s op (.rnd x kk) ∧ t.rng = (fun r => (Config.rngStep r).1)^[8] s.rng)

/-! ## Display (44_display.md) -/

/-- R182: `CLS` zeroes every cell and sets `dirty`, and writes nothing else. -/
def Obligations.ClearBlanksTheFramebuffer : Prop :=
  ∀ s : State, decode 0x00E0 = .ok .cls ∧
    ∃ t, exec .cls s = .next t ∧ (∀ i, cell t.fb i = false) ∧ t.dirty = true ∧
      t.pc = s.pc + 2 ∧ OnlyChanges { fb := true, dirty := true } s t

/-- R184, R183, R185, R181: `DRW` toggles exactly the cells under the sprite's bits of 1, wrapped on both axes; the flag
register ends as 1 exactly when one of them was lit; `dirty` is set (decision D14); out of range nothing is drawn and it
faults (decisions D6, D7). With no rows there is nothing to read or to toggle (decision D15). -/
def Obligations.DrawXorsTheSpriteAndReportsCollision : Prop :=
  ∀ (x y : Reg) (n : RowCount) (s : State),
    decode (formatXyn 0xD x y (BitVec.ofFin n)) = .ok (.drw x y n) ∧
    (n.val = 0 ∨ s.index.toNat + (n.val - 1) < 4096 → ∃ t, exec (.drw x y n) s = .next t ∧
      (let bytes := (List.range n.val).map (fun r => s.mem.read (s.index.toNat + r))
       let covers := spriteCovers (s.reg x).toNat (s.reg y).toNat bytes
       (∀ i, cell t.fb i = true ↔ ((cell s.fb i = true ∧ ¬ covers i) ∨ (cell s.fb i = false ∧ covers i))) ∧
       ((∃ i, covers i ∧ cell s.fb i = true) → (t.reg 15).toNat = 1) ∧
       ((¬ ∃ i, covers i ∧ cell s.fb i = true) → (t.reg 15).toNat = 0)) ∧
      t.dirty = true ∧ t.pc = s.pc + 2 ∧
      OnlyChanges { regs := [15], fb := true, dirty := true } s t) ∧
    (0 < n.val → 4096 ≤ s.index.toNat + n.val - 1 →
      ∃ t, exec (.drw x y n) s = .next t ∧ FaultRaised 4 s.index s t)

/-- R187, which the spec derives from R183. (a) Within one draw no cell is visited twice; each visited cell is toggled, and the
collision is whether one of them was lit. (b) Drawing the same sprite twice at the same position restores the framebuffer.
(c) The second draw reports a collision exactly when the first turned a cell from 0 to 1. (d) A sprite with a bit of 1
collides in one of the two. -/
def Obligations.DrawTwiceRestoresTheFramebuffer : Prop :=
  ∀ (px py : Nat) (bytes : List Byte) (f : Frame), bytes.length ≤ 15 →
    let first := draw px py bytes f
    let second := draw px py bytes first.frame
    (∀ row < bytes.length, ∀ row' < bytes.length, ∀ col < 8, ∀ col' < 8,
      (py + row) % 32 * 64 + (px + col) % 64 = (py + row') % 32 * 64 + (px + col') % 64 → row = row' ∧ col = col') ∧
    (∀ i, cell first.frame i = cell f i ↔ ¬ spriteCovers px py bytes i) ∧
    (first.collision = true ↔ ∃ i, spriteCovers px py bytes i ∧ cell f i = true) ∧
    second.frame = f ∧
    (second.collision = true ↔ ∃ i, cell f i = false ∧ cell first.frame i = true) ∧
    ((∃ b ∈ bytes, b ≠ 0) → first.collision = true ∨ second.collision = true)

/-- R186, R229: no step clears `dirty`; a step that changes the framebuffer sets it; only `CLS` and `DRW` set it,
whether or not a cell changes (decision D14). -/
def Obligations.DirtyMarksEveryDrawAndClear : Prop :=
  ∀ s t : State, step s = .next t →
    (s.dirty = true → t.dirty = true) ∧ (t.fb ≠ s.fb → t.dirty = true) ∧
    (t.dirty ≠ s.dirty → ∃ op i, Executes s op i ∧ (i = .cls ∨ ∃ x y n, i = .drw x y n)) ∧
    (∀ op i, Executes s op i → (i = .cls ∨ ∃ x y n, i = .drw x y n) → t.status = .running → t.dirty = true)

/-! ## Keypad (45_keypad.md) -/

/-- R190, R191, R193: the key skips test the level of the key that the whole byte `V[x]` names; a value above 15 faults and
is not masked (decision D8). -/
def Obligations.KeySkipsTestTheNamedKey : Prop :=
  ∀ (x : Reg) (s : State),
    (decode (formatXkk 0xE x 0x9E) = .ok (.skp x) ∧ decode (formatXkk 0xE x 0xA1) = .ok (.sknp x)) ∧
    (∀ h : (s.reg x).toNat < 16,
      (∃ t, exec (.skp x) s = .next t ∧ OnlyChanges {} s t ∧
        t.pc = s.pc + (if s.keys[(s.reg x).toNat] = true then 4 else 2)) ∧
      (∃ t, exec (.sknp x) s = .next t ∧ OnlyChanges {} s t ∧
        t.pc = s.pc + (if s.keys[(s.reg x).toNat] = true then 2 else 4))) ∧
    (15 < (s.reg x).toNat →
      (∃ t, exec (.skp x) s = .next t ∧ FaultRaised 6 t.faultInfo s t ∧ t.faultInfo.toNat = (s.reg x).toNat) ∧
      (∃ t, exec (.sknp x) s = .next t ∧ FaultRaised 6 t.faultInfo s t ∧ t.faultInfo.toNat = (s.reg x).toNat))

/-- R192: `WAITK` loads the lowest index of a pressed key and advances; with no key pressed it changes nothing, `pc`
included, so that its step only ticks the timers and the next step fetches and executes it again. -/
def Obligations.WaitLoadsTheLowestPressedKey : Prop :=
  ∀ (x : Reg) (s : State),
    decode (formatXkk 0xF x 0x0A) = .ok (.waitk x) ∧
    (∀ k : Key, s.key k = true → (∀ j : Key, j < k → s.key j = false) →
      ∃ t, exec (.waitk x) s = .next t ∧ (t.reg x).toNat = k.val ∧
        t.pc = s.pc + 2 ∧ OnlyChanges { regs := [x] } s t) ∧
    ((∀ k : Key, s.key k = false) → ∃ t, exec (.waitk x) s = .next t ∧ t.pc = s.pc ∧ OnlyChanges {} s t) ∧
    (∀ op, Executes s op (.waitk x) → (∀ k : Key, s.key k = false) →
      ∃ t, step s = .next t ∧ OnlyTimers (s.dt.toNat - 1) (s.st.toNat - 1) s t ∧ Executes t op (.waitk x))

/-! ## Timers (46_timers.md) -/

/-- R201, R202, R203: `LDDT` reads `DT`, `STDT` and `STST` load `DT` and `ST`, each before the tick of its step. -/
def Obligations.TimerInstructionsMoveTheTimers : Prop :=
  ∀ (x : Reg) (s : State),
    (decode (formatXkk 0xF x 0x07) = .ok (.lddt x) ∧
      ∃ t, exec (.lddt x) s = .next t ∧ t.reg x = s.dt ∧ t.pc = s.pc + 2 ∧ OnlyChanges { regs := [x] } s t) ∧
    (decode (formatXkk 0xF x 0x15) = .ok (.stdt x) ∧
      ∃ t, exec (.stdt x) s = .next t ∧ t.dt = s.reg x ∧ t.pc = s.pc + 2 ∧ OnlyChanges { dt := true } s t) ∧
    (decode (formatXkk 0xF x 0x18) = .ok (.stst x) ∧
      ∃ t, exec (.stst x) s = .next t ∧ t.st = s.reg x ∧ t.pc = s.pc + 2 ∧ OnlyChanges { st := true } s t)

/-! ## Reset and the driver (60_exceptions.md R226 to R236, 70_reset_and_hazards.md) -/

/-- R38, R251, R252, R63: reset with an image of at most 3584 bytes gives the state of the reset table; a longer one gives no
machine. The zeros are decisions D10 and D11; the glyph bytes and the seed are the open parameters, whatever they are (log
entries 1 and 2). -/
def Obligations.ResetLoadsTheImage : Prop :=
  ∀ image : List Byte,
    (image.length ≤ 3584 → ∃ t, resetWith image = .next t ∧
      (∀ (i : Nat) (h : i < image.length), t.mem.read (0x200 + i) = image[i]) ∧
      (∀ j : Fin 80, t.mem.read (0x050 + j.val) = Config.glyphTable j) ∧
      (∀ a, a < 0x050 ∨ (0x0A0 ≤ a ∧ a < 0x200) ∨ (0x200 + image.length ≤ a ∧ a ≤ 0xFFF) → t.mem.read a = 0) ∧
      (∀ r, t.reg r = 0) ∧ t.pc = 0x0200 ∧ t.index = 0 ∧ (∀ (k : Nat) (h : k < 16), t.stack[k] = 0) ∧
      t.sp.val = 0 ∧ t.dt = 0 ∧ t.st = 0 ∧ (∀ k, t.key k = false) ∧ (∀ i, cell t.fb i = false) ∧
      t.dirty = false ∧ t.rng = Config.rngSeed ∧ t.status = .running ∧ t.cause = 0 ∧ t.faultInfo = 0) ∧
    (3584 < image.length → ∀ t, resetWith image ≠ .next t)

/-- R227, R228, R229, R236: each move of the driver between steps writes only what it names: a key, `dirty`, or nothing. A
key index outside 0 to 15 has no next state. The moves are decision D20; that press, release and
acknowledge take effect in the FAULTED state too is the model's choice (log entry 6, DESIGN CHOICE). -/
def Obligations.DriverMovesTouchOnlyTheirState : Prop :=
  ∀ s : State,
    (∀ (i : Nat) (h : i < 16), ∃ t u, applyMove (.press i) s = .next t ∧ applyMove (.release i) s = .next u ∧
      t.keys[i] = true ∧ u.keys[i] = false ∧
      (∀ (j : Nat) (hj : j < 16), j ≠ i → t.keys[j] = s.keys[j] ∧ u.keys[j] = s.keys[j]) ∧
      OnlyChanges {} { s with keys := t.keys } t ∧ OnlyChanges {} { s with keys := u.keys } u ∧
      t.pc = s.pc ∧ u.pc = s.pc) ∧
    (∀ i, 15 < i → ∀ t, applyMove (.press i) s ≠ .next t ∧ applyMove (.release i) s ≠ .next t) ∧
    (∃ t, applyMove .acknowledge s = .next t ∧ t.dirty = false ∧ t.pc = s.pc ∧
      OnlyChanges { dirty := true } s t) ∧
    (∀ (i : Fin 2048), s.framebuffer[i.val]? = some (cell s.fb i)) ∧ s.framebuffer.length = 2048 ∧
    (applyMove .readFramebuffer s = .next s ∧ applyMove .readDirty s = .next s ∧
      applyMove .readFaultRegisters s = .next s)

/-! ## Whole-machine rules -/

/-- R25, R24: a step leaves the stack and its depth alone, but for a `CALL` (one slot more) and a `RET` (one less, the slots
unchanged). The closed world is decision D1. -/
def Obligations.OnlyCallAndReturnMoveTheStack : Prop :=
  ∀ s t : State, step s = .next t →
    (t.sp = s.sp ∧ t.stack = s.stack) ∨
    (∃ op nnn, Executes s op (.call nnn) ∧ t.sp.val = s.sp.val + 1) ∨
    (∃ op, Executes s op .ret ∧ s.sp.val = t.sp.val + 1 ∧ t.stack = s.stack)

/-- R39, R9: an instruction changes only what the writes column of R39 names for it, and `pc`; or it raises a fault and
changes only the fault registers (decisions D1, D6). -/
def Obligations.InstructionsWriteOnlyWhatTheTableNames : Prop :=
  ∀ (i : Instr) (s : State), s.status = .running → ∃ t, exec i s = .next t ∧
    ((t.status = .running ∧ OnlyChanges (writesOf i s) s t) ∨ FaultRaised t.cause.toNat t.faultInfo s t)

/-- R39: what an instruction does depends only on what the reads column of R39 names for it: from two states that agree
there (and in `pc` and the fault registers) it ends the same way, in everything it writes (decision D1). -/
def Obligations.InstructionsReadOnlyWhatTheTableNames : Prop :=
  ∀ (i : Instr) (s₁ s₂ : State), s₁.status = .running → s₂.status = .running →
    s₁.cause = s₂.cause → s₁.faultInfo = s₂.faultInfo → AgreeOnReads (readsOf i s₁) s₁ s₂ →
    ∃ t₁ t₂, exec i s₁ = .next t₁ ∧ exec i s₂ = .next t₂ ∧
      t₁.pc = t₂.pc ∧ t₁.status = t₂.status ∧ t₁.cause = t₂.cause ∧ t₁.faultInfo = t₂.faultInfo ∧
      (t₁.status = .running → AgreeOnWrites (writesOf i s₁) t₁ t₂)

/-- The canonical form says what it is for: two memories of that form that read the same at every address are the same data
(log entry 3: the form is the model's). -/
def Obligations.EqualReadsMakeEqualMemories : Prop :=
  ∀ m m' : Memory, m.wf = true → m'.wf = true → (∀ a, m.read a = m'.read a) → m = m'

/-- R37, the spec's own derivation, at reset (the canonical form of memory is the model's: log entry 3): the invariant
holds of the state after reset with any image that loads. -/
def Obligations.ResetMeetsTheInvariant : Prop :=
  Inv State.reset ∧ ∀ (image : List Byte) (t : State), resetWith image = .next t → Inv t

/-- R37, the spec's own derivation (the canonical form of memory is the model's: log entry 3): every step from any state that
meets the invariant gives a state that meets it. -/
def Obligations.StepKeepsTheInvariant : Prop :=
  ∀ s t : State, Inv s → step s = .next t → Inv t

/-- R37, the spec's own derivation (the canonical form of memory is the model's: log entry 3): the invariant holds in every
state that reset and any sequence of the driver's moves bring about. -/
def Obligations.ReachableStatesMeetTheInvariant : Prop :=
  ∀ s : State, Reachable s → Inv s

/-- R37, the spec's own derivation, over R236's table (the canonical form of memory is the model's: log entry 3; that the driver
may move in the FAULTED state too: log entry 6): every move of the driver, the step among them, from any state that meets the
invariant gives a state that meets it. -/
def Obligations.EveryMoveKeepsTheInvariant : Prop :=
  ∀ (m : Move) (s t : State), Inv s → applyMove m s = .next t → Inv t
end

