-- ==== Sys2Proof/Laws/Cycle.lean ====
section
/-! SUPPORT. What a step can do, said once: the cases of 40_control_flow.md R121 and R124. -/

namespace Sys2Proof.Machine

open Sys2Proof

theorem raiseFault_eq (k : FaultKind) (info : Word) (s : State) : raiseFault k info s = .next (s.raise k info) := rfl

theorem tickTimer_toNat (b : Byte) : (tickTimer b).toNat = b.toNat - 1 := by
  simp only [tickTimer]
  split
  · next h => simp [h]
  · next h =>
    have : b.toNat ≠ 0 := fun h0 => h (BitVec.eq_of_toNat_eq (by simpa using h0))
    rw [BitVec.toNat_sub]
    have := b.isLt
    simp
    omega

theorem fetch_of_le (s : State) (h : s.pc.toNat ≤ 0xFFE) :
    s.fetch = some (wordOfBytes (s.mem.read s.pc.toNat) (s.mem.read (s.pc.toNat + 1))) := if_pos h

theorem fetch_of_lt (s : State) (h : 0xFFE < s.pc.toNat) : s.fetch = none := if_neg (by simp; omega)

/-- A step that answers a next state: the machine was running, and one of the three cases of R121 holds. -/
theorem step_next_cases (s t : State) (h : step s = .next t) :
    s.status = .running ∧
      ((s.fetch = none ∧ t = s.raise .fetchOutOfRange s.pc) ∨
       (∃ op e, s.fetch = some op ∧ decode op = .error e ∧ t = s.raise .unrecognizedOpcode op) ∨
       (∃ op i u, s.fetch = some op ∧ decode op = .ok i ∧ exec i s = .next u ∧
          ((u.status = .running ∧ t = u.tick) ∨ (u.status = .faulted ∧ t = u)))) := by
  unfold step trigger at h
  cases hs : s.status with
  | faulted => rw [hs] at h; cases h
  | running =>
    rw [hs] at h
    refine ⟨rfl, ?_⟩
    simp only [cycle] at h
    cases hf : s.fetch with
    | none =>
      rw [hf] at h
      exact .inl ⟨rfl, (Host.Outcome.next.inj h).symm⟩
    | some op =>
      rw [hf] at h
      simp only at h
      cases hd : decode op with
      | error e =>
        rw [hd] at h
        exact .inr (.inl ⟨op, e, rfl, hd, (Host.Outcome.next.inj h).symm⟩)
      | ok i =>
        rw [hd] at h
        simp only at h
        cases he : exec i s with
        | fault f => rw [he] at h; cases h
        | refused r => rw [he] at h; cases h
        | next u =>
          rw [he] at h
          refine .inr (.inr ⟨op, i, u, rfl, hd, he, ?_⟩)
          cases hu : u.status with
          | running => exact .inl ⟨rfl, by simpa [finishStep, hu] using h.symm⟩
          | faulted => exact .inr ⟨rfl, by simpa [finishStep, hu] using h.symm⟩

end Sys2Proof.Machine
end

