-- ==== Sys2Proof/Laws/Display.lean ====
section
/-! SUPPORT. What flipping one cell does, and the framebuffer's clear form. -/

namespace Sys2Proof.Machine

open Sys2Proof

theorem pixel_wrap (f : Frame) (c r : Nat) : pixel f (c % 64) (r % 32) = pixel f c r := by
  simp [pixel]

/-- A flip toggles its own cell, wrapped on both axes, and no other (44 R181, R183). -/
theorem pixel_flipPixel (f : Frame) (c r c' r' : Nat) :
    pixel (flipPixel f c r) c' r' =
      if c % 64 = c' % 64 ∧ r % 32 = r' % 32 then !pixel f c' r' else pixel f c' r' := by
  by_cases hr : r % 32 = r' % 32
  · by_cases hc : c % 64 = c' % 64
    · simp [pixel, flipPixel, hr, hc]
    · simp [pixel, flipPixel, hr, hc]
  · simp [pixel, flipPixel, hr]

@[simp] theorem pixel_clearFrame (c r : Nat) : pixel clearFrame c r = false := by
  simp [pixel, clearFrame]

@[simp] theorem drawPixel_frame (c r : Nat) (d : Drawing) : (drawPixel c r d).frame = flipPixel d.frame c r := rfl

@[simp] theorem drawPixel_collision (c r : Nat) (d : Drawing) :
    (drawPixel c r d).collision = (d.collision || pixel d.frame c r) := rfl

/-- Two framebuffers are equal when all their cells are. -/
theorem frame_ext (f g : Frame) (h : ∀ c r, c < 64 → r < 32 → pixel f c r = pixel g c r) : f = g := by
  apply Vector.ext
  intro r hr
  apply Vector.ext
  intro c hc
  simpa [pixel, Nat.mod_eq_of_lt hr, Nat.mod_eq_of_lt hc] using h c r hc hr

/-- The same by the index of the cell (R180). -/
theorem cell_ext (f g : Frame) (h : ∀ i, cell f i = cell g i) : f = g := by
  apply frame_ext
  intro c r hc hr
  have := h ⟨r * 64 + c, by omega⟩
  simp only [cell] at this
  rwa [show (r * 64 + c) % 64 = c by omega, show (r * 64 + c) / 64 = r by omega] at this

end Sys2Proof.Machine
end

