-- ==== Sys2Proof/Laws/Draw.lean ====
section
/-! SUPPORT. What the sprite engine can do, said once (44_display.md R181, R183, R185). -/

namespace Sys2Proof.Machine

open Sys2Proof

/-- A 1 among the first `n` columns of the byte `b`, drawn at `(px, py)`, lands on column `c` and row `r`. -/
def bitsCover (px py : Nat) (b : Byte) (n c r : Nat) : Prop :=
  ∃ k, k < n ∧ b.getLsbD (7-k) = true ∧ (px + k) % 64 = c % 64 ∧ py % 32 = r % 32

open Classical in
/-- The first `n` columns of one sprite row: the cells under a 1 are toggled, the others kept, and a lit cell under a 1 is a
collision (R183). -/
theorem drawBits_spec (px py : Nat) (b : Byte) (n : Nat) (hn : n ≤ 8) (d : Drawing) :
   (∀ c r, pixel (drawBits px py b n d).frame c r = (pixel d.frame c r ^^ decide (bitsCover px py b n c r))) ∧
   ((drawBits px py b n d).collision = true ↔ d.collision = true ∨
      ∃ c r, bitsCover px py b n c r ∧ pixel d.frame c r = true) := by
  induction n with
  | zero => simp [drawBits, bitsCover]
  | succ n ih =>
    obtain ⟨h1, h2⟩ := ih (by omega)
    simp only [drawBits]
    have hcov : ∀ c r, bitsCover px py b (n+1) c r ↔
        bitsCover px py b n c r ∨ (b.getLsbD (7-n) = true ∧ (px+n)%64 = c%64 ∧ py%32 = r%32) := by
      intro c r; simp only [bitsCover, Nat.lt_succ_iff_lt_or_eq]
      constructor
      · rintro ⟨k, hk | rfl, h⟩
        · exact .inl ⟨k, hk, h⟩
        · exact .inr h
      · rintro (⟨k, hk, h⟩ | h)
        · exact ⟨k, .inl hk, h⟩
        · exact ⟨n, .inr rfl, h⟩
    have hnot : ¬ bitsCover px py b n (px+n) py := by
      rintro ⟨k, hk, -, h, -⟩; omega
    split
    · next hb =>
      constructor
      · intro c r
        rw [drawPixel_frame, pixel_flipPixel, h1]
        by_cases hc : (px+n)%64 = c%64 ∧ py%32 = r%32
        · have hn2 : ¬ bitsCover px py b n c r := by
            rintro ⟨k, hk, -, h, -⟩; omega
          have : bitsCover px py b (n+1) c r := (hcov c r).2 (.inr ⟨hb, hc⟩)
          simp [hc, hn2, this]
        · rw [if_neg hc]
          have : bitsCover px py b (n+1) c r ↔ bitsCover px py b n c r := by rw [hcov]; simp [hc]
          simp [this]
      · rw [drawPixel_collision, Bool.or_eq_true, h2, h1]
        constructor
        · rintro ((h | ⟨c, r, hc, hp⟩) | h)
          · exact .inl h
          · exact .inr ⟨c, r, (hcov c r).2 (.inl hc), hp⟩
          · exact .inr ⟨px+n, py, (hcov _ _).2 (.inr ⟨hb, rfl, rfl⟩), by simpa [hnot] using h⟩
        · rintro (h | ⟨c, r, hc, hp⟩)
          · exact .inl (.inl h)
          · rcases (hcov c r).1 hc with hc | ⟨_, hc1, hc2⟩
            · exact .inl (.inr ⟨c, r, hc, hp⟩)
            · refine .inr ?_
              simp only [hnot, decide_false, Bool.xor_false]
              rw [← pixel_wrap, hc1, hc2, pixel_wrap]; exact hp
    · next hb =>
      have : ∀ c r, bitsCover px py b (n+1) c r ↔ bitsCover px py b n c r := by intro c r; rw [hcov]; simp [hb]
      simp only [this]; exact ⟨h1, h2⟩


/-- A 1 of the sprite `bs`, drawn at `(px, py)`, lands on column `c` and row `r`. -/
def rowsCover (px py : Nat) (bs : List Byte) (c r : Nat) : Prop :=
  ∃ j : Nat, ∃ h : j < bs.length, bitsCover px (py + j) bs[j] 8 c r

open Classical in
/-- All rows of a sprite; no two of its bits land on one cell (R183). -/
theorem drawRows_spec (px py : Nat) (bs : List Byte) (hn : bs.length ≤ 32) (d : Drawing) :
   (∀ c r, pixel (drawRows px py bs d).frame c r = (pixel d.frame c r ^^ decide (rowsCover px py bs c r))) ∧
   ((drawRows px py bs d).collision = true ↔ d.collision = true ∨
      ∃ c r, rowsCover px py bs c r ∧ pixel d.frame c r = true) := by
  induction bs generalizing py d with
  | nil => simp [drawRows, rowsCover]
  | cons b bs ih =>
    obtain ⟨g1, g2⟩ := drawBits_spec px py b 8 le_rfl d
    simp only [List.length_cons] at hn
    obtain ⟨h1, h2⟩ := ih (py+1) (by omega) (drawBits px py b 8 d)
    have hcov : ∀ c r, rowsCover px py (b::bs) c r ↔ bitsCover px py b 8 c r ∨ rowsCover px (py+1) bs c r := by
      intro c r
      constructor
      · rintro ⟨j, hj, h⟩
        cases j with
        | zero => exact .inl h
        | succ j => exact .inr ⟨j, by simpa using hj, by simpa [Nat.add_assoc, Nat.add_comm 1] using h⟩
      · rintro (h | ⟨j, hj, h⟩)
        · exact ⟨0, by simp, h⟩
        · exact ⟨j+1, by simpa using hj, by simpa [Nat.add_assoc, Nat.add_comm 1] using h⟩
    have hdisj : ∀ c r, bitsCover px py b 8 c r → ¬ rowsCover px (py+1) bs c r := by
      rintro c r ⟨k, _, _, _, e⟩ ⟨j, hj, k', _, _, _, e'⟩; omega
    simp only [drawRows]
    constructor
    · intro c r
      rw [h1, g1]
      by_cases a1 : bitsCover px py b 8 c r
      · have := hdisj c r a1; simp [a1, this, (hcov c r).2 (.inl a1)]
      · have : rowsCover px py (b::bs) c r ↔ rowsCover px (py+1) bs c r := by rw [hcov]; simp [a1]
        simp [a1, this]
    · rw [h2, g2]
      constructor
      · rintro ((h | ⟨c, r, hc, hp⟩) | ⟨c, r, hc, hp⟩)
        · exact .inl h
        · exact .inr ⟨c, r, (hcov c r).2 (.inl hc), hp⟩
        · refine .inr ⟨c, r, (hcov c r).2 (.inr hc), ?_⟩
          rw [g1] at hp
          have : ¬ bitsCover px py b 8 c r := fun a => hdisj c r a hc
          simpa [this] using hp
      · rintro (h | ⟨c, r, hc, hp⟩)
        · exact .inl (.inl h)
        · rcases (hcov c r).1 hc with hc | hc
          · exact .inl (.inr ⟨c, r, hc, hp⟩)
          · refine .inr ⟨c, r, hc, ?_⟩
            rw [g1]
            have : ¬ bitsCover px py b 8 c r := fun a => hdisj c r a hc
            simpa [this] using hp

/-- The same by the index of the cell (44_display.md R180, R181). -/
theorem spriteCovers_iff (px py : Nat) (bs : List Byte) (i : Fin 2048) :
    spriteCovers px py bs i ↔ rowsCover px py bs (i.val % 64) (i.val / 64) := by
  constructor
  · rintro ⟨row, col, h1, h2⟩
    exact ⟨row.val, row.isLt, col.val, col.isLt, h1, by omega, by omega⟩
  · rintro ⟨j, hj, k, hk, h1, h2, h3⟩
    exact ⟨⟨j, hj⟩, ⟨k, hk⟩, h1, by simp; omega⟩

theorem rowsCover_wrap (px py bs c r) : rowsCover px py bs (c % 64) (r % 32) ↔ rowsCover px py bs c r := by
  simp [rowsCover, bitsCover]

/-- A property that wraps holds somewhere exactly when it holds of one of the 2048 cells. -/
theorem exists_pixel_iff (P : Nat → Nat → Prop) (hP : ∀ c r, P (c%64) (r%32) ↔ P c r) :
    (∃ c r, P c r) ↔ ∃ i : Fin 2048, P (i.val % 64) (i.val / 64) := by
  constructor
  · rintro ⟨c, r, h⟩
    refine ⟨⟨(r % 32) * 64 + c % 64, by omega⟩, ?_⟩
    have e1 : ((r % 32) * 64 + c % 64) % 64 = c % 64 := by omega
    have e2 : ((r % 32) * 64 + c % 64) / 64 = r % 32 := by omega
    show P (((r % 32) * 64 + c % 64) % 64) (((r % 32) * 64 + c % 64) / 64)
    rw [e1, e2, hP]; exact h
  · rintro ⟨i, h⟩; exact ⟨_, _, h⟩

/-- Everything `Draw` does: it toggles the cells that the sprite covers, and there is a collision exactly when one of
them was lit (R183, R185). -/
theorem draw_spec (px py : Nat) (bs : List Byte) (hn : bs.length ≤ 32) (f : Frame) :
   (∀ i, cell (draw px py bs f).frame i = (cell f i ^^ decide (spriteCovers px py bs i))) ∧
   ((draw px py bs f).collision = true ↔ ∃ i, spriteCovers px py bs i ∧ cell f i = true) := by
  obtain ⟨h1, h2⟩ := drawRows_spec px py bs hn ⟨f, false⟩
  constructor
  · intro i
    simp only [cell, draw, h1]
    congr 1
    exact decide_eq_decide.2 (spriteCovers_iff px py bs i).symm
  · simp only [draw, h2, spriteCovers_iff, cell]
    simp only [Bool.false_eq_true, false_or]
    exact exists_pixel_iff (fun c r => rowsCover px py bs c r ∧ pixel f c r = true)
      (by intro c r; simp only [rowsCover_wrap, pixel_wrap])

end Sys2Proof.Machine
end

