-- ==== Sys2Proof/Laws/Encoding.lean ====
section
/-! SUPPORT. The fields of an encoded opcode (30_encoding.md R91, R92), and that every instruction is well formed. -/

namespace Sys2Proof

@[simp] theorem regOfNibble_nibbleOfReg (r : Reg) : regOfNibble (nibbleOfReg r) = r := rfl

@[simp] theorem nibbleOfReg_regOfNibble (b : Nibble) : nibbleOfReg (regOfNibble b) = b := rfl

/-! ## The bits of an encoded opcode -/

theorem getLsbD_formatNnn (m : Nibble) (a : Addr12) (i : Nat) :
    (formatNnn m a).getLsbD i = if i < 12 then a.getLsbD i else m.getLsbD (i - 12) := BitVec.getLsbD_append

theorem getLsbD_formatXkk (m : Nibble) (x : Reg) (kk : Byte) (i : Nat) :
    (formatXkk m x kk).getLsbD i =
      if i < 8 then kk.getLsbD i else if i < 12 then (nibbleOfReg x).getLsbD (i - 8) else m.getLsbD (i - 12) := by
  have h : (formatXkk m x kk).getLsbD i =
      if i < 12 then (nibbleOfReg x ++ kk).getLsbD i else m.getLsbD (i - 12) := BitVec.getLsbD_append
  rw [h, BitVec.getLsbD_append]
  split <;> split <;> first | rfl | omega

theorem getLsbD_formatXyn (m : Nibble) (x y : Reg) (n : Nibble) (i : Nat) :
    (formatXyn m x y n).getLsbD i =
      if i < 4 then n.getLsbD i else if i < 8 then (nibbleOfReg y).getLsbD (i - 4)
      else if i < 12 then (nibbleOfReg x).getLsbD (i - 8) else m.getLsbD (i - 12) := by
  have h : (formatXyn m x y n).getLsbD i =
      if i < 12 then (nibbleOfReg x ++ (nibbleOfReg y ++ n)).getLsbD i else m.getLsbD (i - 12) :=
    BitVec.getLsbD_append
  rw [h, BitVec.getLsbD_append, BitVec.getLsbD_append]
  split <;> split <;> (try split) <;> first | rfl | omega

theorem getLsbD_wordOfBytes (hi lo : Byte) (i : Nat) :
    (wordOfBytes hi lo).getLsbD i = if i < 8 then lo.getLsbD i else hi.getLsbD (i - 8) := BitVec.getLsbD_append

/-! ## Reading the fields back -/

@[simp] theorem majorField_formatNnn (m : Nibble) (a : Addr12) :
    majorField (formatNnn m a) = m := by
  apply BitVec.eq_of_getLsbD_eq
  intro i hi
  simp only [majorField, BitVec.getLsbD_extractLsb', getLsbD_formatNnn, hi, decide_true, Bool.true_and]
  repeat' split
  all_goals first | omega | (congr 1; omega)

@[simp] theorem nnnField_formatNnn (m : Nibble) (a : Addr12) :
    nnnField (formatNnn m a) = a := by
  apply BitVec.eq_of_getLsbD_eq
  intro i hi
  simp only [nnnField, BitVec.getLsbD_extractLsb', getLsbD_formatNnn, hi, decide_true, Bool.true_and]
  repeat' split
  all_goals first | omega | (congr 1; omega)

@[simp] theorem majorField_formatXkk (m : Nibble) (x : Reg) (kk : Byte) :
    majorField (formatXkk m x kk) = m := by
  apply BitVec.eq_of_getLsbD_eq
  intro i hi
  simp only [majorField, BitVec.getLsbD_extractLsb', getLsbD_formatXkk, hi, decide_true, Bool.true_and]
  repeat' split
  all_goals first | omega | (congr 1; omega)

@[simp] theorem xField_formatXkk (m : Nibble) (x : Reg) (kk : Byte) :
    xField (formatXkk m x kk) = nibbleOfReg x := by
  apply BitVec.eq_of_getLsbD_eq
  intro i hi
  simp only [xField, BitVec.getLsbD_extractLsb', getLsbD_formatXkk, hi, decide_true, Bool.true_and]
  repeat' split
  all_goals first | omega | (congr 1; omega)

@[simp] theorem kkField_formatXkk (m : Nibble) (x : Reg) (kk : Byte) :
    kkField (formatXkk m x kk) = kk := by
  apply BitVec.eq_of_getLsbD_eq
  intro i hi
  simp only [kkField, BitVec.getLsbD_extractLsb', getLsbD_formatXkk, hi, decide_true, Bool.true_and]
  repeat' split
  all_goals first | omega | (congr 1; omega)

@[simp] theorem majorField_formatXyn (m : Nibble) (x y : Reg) (n : Nibble) :
    majorField (formatXyn m x y n) = m := by
  apply BitVec.eq_of_getLsbD_eq
  intro i hi
  simp only [majorField, BitVec.getLsbD_extractLsb', getLsbD_formatXyn, hi, decide_true, Bool.true_and]
  repeat' split
  all_goals first | omega | (congr 1; omega)

@[simp] theorem xField_formatXyn (m : Nibble) (x y : Reg) (n : Nibble) :
    xField (formatXyn m x y n) = nibbleOfReg x := by
  apply BitVec.eq_of_getLsbD_eq
  intro i hi
  simp only [xField, BitVec.getLsbD_extractLsb', getLsbD_formatXyn, hi, decide_true, Bool.true_and]
  repeat' split
  all_goals first | omega | (congr 1; omega)

@[simp] theorem yField_formatXyn (m : Nibble) (x y : Reg) (n : Nibble) :
    yField (formatXyn m x y n) = nibbleOfReg y := by
  apply BitVec.eq_of_getLsbD_eq
  intro i hi
  simp only [yField, BitVec.getLsbD_extractLsb', getLsbD_formatXyn, hi, decide_true, Bool.true_and]
  repeat' split
  all_goals first | omega | (congr 1; omega)

@[simp] theorem nField_formatXyn (m : Nibble) (x y : Reg) (n : Nibble) :
    nField (formatXyn m x y n) = n := by
  apply BitVec.eq_of_getLsbD_eq
  intro i hi
  simp only [nField, BitVec.getLsbD_extractLsb', getLsbD_formatXyn, hi, decide_true, Bool.true_and]
  repeat' split
  all_goals first | omega | (congr 1; omega)

@[simp] theorem highByte_wordOfBytes (hi lo : Byte) :
    highByte (wordOfBytes hi lo) = hi := by
  apply BitVec.eq_of_getLsbD_eq
  intro i h
  simp only [highByte, BitVec.getLsbD_extractLsb', getLsbD_wordOfBytes, h, decide_true, Bool.true_and]
  repeat' split
  all_goals first | omega | (congr 1; omega)

@[simp] theorem lowByte_wordOfBytes (hi lo : Byte) :
    lowByte (wordOfBytes hi lo) = lo := by
  apply BitVec.eq_of_getLsbD_eq
  intro i h
  simp only [lowByte, BitVec.getLsbD_extractLsb', getLsbD_wordOfBytes, h, decide_true, Bool.true_and]
  repeat' split
  all_goals first | omega | (congr 1; omega)

@[simp] theorem wordOfBytes_high_low (op : Word) : wordOfBytes (highByte op) (lowByte op) = op := by
  apply BitVec.eq_of_getLsbD_eq
  intro i hi
  rw [getLsbD_wordOfBytes]
  split
  · next h => simp [lowByte, h]
  · next h =>
    simp only [highByte, BitVec.getLsbD_extractLsb', show i - 8 < 8 by omega, decide_true, Bool.true_and]
    congr 1; omega

/-! ## The mask columns of the opcode map (R95) -/

theorem formatNnn_and_major (m : Nibble) (a : Addr12) : formatNnn m a &&& 0xF000 = formatNnn m 0 := by
  apply BitVec.eq_of_getLsbD_eq
  intro i hi
  rw [BitVec.getLsbD_and, getLsbD_formatNnn, getLsbD_formatNnn]
  interval_cases i <;> simp

theorem formatXkk_and_major (m : Nibble) (x : Reg) (kk : Byte) : formatXkk m x kk &&& 0xF000 = formatXkk m 0 0 := by
  apply BitVec.eq_of_getLsbD_eq
  intro i hi
  rw [BitVec.getLsbD_and, getLsbD_formatXkk, getLsbD_formatXkk]
  interval_cases i <;> simp [nibbleOfReg]

theorem formatXyn_and_major (m : Nibble) (x y : Reg) (n : Nibble) : formatXyn m x y n &&& 0xF000 = formatXyn m 0 0 0 := by
  apply BitVec.eq_of_getLsbD_eq
  intro i hi
  rw [BitVec.getLsbD_and, getLsbD_formatXyn, getLsbD_formatXyn]
  interval_cases i <;> simp [nibbleOfReg]

theorem formatXkk_and_kk (m : Nibble) (x : Reg) (kk : Byte) : formatXkk m x kk &&& 0xF0FF = formatXkk m 0 kk := by
  apply BitVec.eq_of_getLsbD_eq
  intro i hi
  rw [BitVec.getLsbD_and, getLsbD_formatXkk, getLsbD_formatXkk]
  interval_cases i <;> simp [nibbleOfReg]

theorem formatXyn_and_n (m : Nibble) (x y : Reg) (n : Nibble) : formatXyn m x y n &&& 0xF00F = formatXyn m 0 0 n := by
  apply BitVec.eq_of_getLsbD_eq
  intro i hi
  rw [BitVec.getLsbD_and, getLsbD_formatXyn, getLsbD_formatXyn]
  interval_cases i <;> simp [nibbleOfReg]

/-! ## Assembler lines -/

/-- Every instruction is well formed: the types of its fields carry the ranges (R100). -/
theorem Instr.all_wellFormed (i : Instr) : i.wellFormed = true := by
  cases i <;>
    simp [Instr.wellFormed, Instr.asm, AsmLine.wellFormed, AsmLine.formOk, Instr.operands, Instr.mnemonic,
      Operand.inRange, asmNnn, asmXkk, asmXy, asmX] <;> omega

/-- The assembler line of an instruction assembles to it (R100). -/
theorem Instr.assemble_asm (i : Instr) : i.asm.assemble = some i := by
  rw [AsmLine.assemble, if_pos (show i.asm.wellFormed = true from Instr.all_wellFormed i)]
  cases i <;> simp [Instr.asm, Instr.operands, Instr.mnemonic, assembleShort, assembleLong, asmReg]

end Sys2Proof
end

