-- ==== Sys2Proof/Laws/Memory.lean ====
section
/-! SUPPORT. What each memory operation can do: reads after writes, and the canonical form that every operation keeps. No
lemma about reads needs the canonical form. -/

namespace Sys2Proof.Machine

open Sys2Proof

@[simp] theorem Memory.read_nil (a : Nat) : Memory.read [] a = initialByte a := rfl

theorem Memory.read_cons (k : Nat) (b : Byte) (m : Memory) (a : Nat) :
    Memory.read ((k, b) :: m) a = if k = a then b else Memory.read m a := rfl

theorem Memory.read_insert (m : Memory) (a a' : Nat) (b : Byte) (h : ∀ c ∈ m, c.1 ≠ a) :
    Memory.read (Memory.insert a b m) a' = if a = a' then b else Memory.read m a' := by
  induction m with
  | nil => rfl
  | cons c m ih =>
    obtain ⟨k, d⟩ := c
    have hk : k ≠ a := h (k, d) (by simp)
    simp only [Memory.insert]
    split
    · rfl
    · rw [Memory.read_cons, ih (fun c hc => h c (by simp [hc])), Memory.read_cons]
      split <;> split <;> simp_all

theorem Memory.read_filter (m : Memory) (a a' : Nat) :
    Memory.read (m.filter (fun c => c.1 != a)) a' = if a = a' then initialByte a' else Memory.read m a' := by
  induction m with
  | nil => simp
  | cons c m ih =>
    obtain ⟨k, d⟩ := c
    by_cases hk : k = a
    · subst hk
      rw [List.filter_cons_of_neg (by simp), ih, Memory.read_cons]
      split <;> simp_all
    · rw [List.filter_cons_of_pos (by simpa using hk), Memory.read_cons, ih, Memory.read_cons]
      split <;> split <;> simp_all

/-- A read after a write gives the byte written at its address and the old byte everywhere else (20_memory.md R69). -/
@[simp] theorem Memory.read_write (m : Memory) (a a' : Nat) (b : Byte) :
    Memory.read (Memory.write m a b) a' = if a = a' then b else Memory.read m a' := by
  simp only [Memory.write]
  split
  · next hb => rw [Memory.read_filter]; split <;> simp_all
  · rw [Memory.read_insert _ _ _ _ (by simp), Memory.read_filter]
    split <;> rfl

/-- A read after a write of bytes at ascending addresses. -/
theorem Memory.read_writeList (m : Memory) (a : Nat) (bs : List Byte) (a' : Nat) :
    Memory.read (Memory.writeList m a bs) a' =
      if h : a ≤ a' ∧ a' - a < bs.length then bs[a' - a]'h.2 else Memory.read m a' := by
  induction bs generalizing m a with
  | nil => simp [Memory.writeList]
  | cons b bs ih =>
    rw [Memory.writeList, ih, Memory.read_write]
    by_cases h0 : a = a'
    · subst h0
      simp
    · by_cases h1 : a + 1 ≤ a' ∧ a' - (a + 1) < bs.length
      · have h2 : a ≤ a' ∧ a' - a < (b :: bs).length := by simp only [List.length_cons]; omega
        have h3 : a' - a = (a' - (a + 1)) + 1 := by omega
        rw [dif_pos h1, dif_pos h2]
        simp only [h3, List.getElem_cons_succ]
      · have h2 : ¬ (a ≤ a' ∧ a' - a < (b :: bs).length) := by simp only [List.length_cons]; omega
        rw [dif_neg h1, dif_neg h2, if_neg h0]

/-- A write of bytes leaves every address outside them alone. -/
theorem Memory.read_writeList_outside (m : Memory) (a : Nat) (bs : List Byte) (a' : Nat)
    (h : a' < a ∨ a + bs.length ≤ a') : Memory.read (Memory.writeList m a bs) a' = Memory.read m a' := by
  rw [Memory.read_writeList, dif_neg (by omega)]

@[simp] theorem Memory.length_readList (m : Memory) (a n : Nat) : (Memory.readList m a n).length = n := by
  induction n generalizing a with
  | zero => rfl
  | succ n ih => simp [Memory.readList, ih]

theorem Memory.getElem_readList (m : Memory) (a n i : Nat) (h : i < n) :
    (Memory.readList m a n)[i]'(by simpa using h) = Memory.read m (a + i) := by
  induction n generalizing a i with
  | zero => omega
  | succ n ih =>
    cases i with
    | zero => rfl
    | succ i =>
      simp only [Memory.readList, List.getElem_cons_succ]
      rw [ih (a + 1) i (by omega)]
      congr 1; omega

/-! ## The canonical form -/

theorem Memory.wf_cons (a : Nat) (b : Byte) (m : Memory) :
    Memory.wf ((a, b) :: m) = true ↔
      a < 4096 ∧ b ≠ initialByte a ∧ (∀ c ∈ m, a < c.1) ∧ Memory.wf m = true := by
  simp [Memory.wf, and_assoc]

theorem Memory.wf_filter (m : Memory) (a : Nat) (h : Memory.wf m = true) :
    Memory.wf (m.filter (fun c => c.1 != a)) = true := by
  induction m with
  | nil => rfl
  | cons c m ih =>
    obtain ⟨k, d⟩ := c
    obtain ⟨h1, h2, h3, h4⟩ := (Memory.wf_cons k d m).1 h
    by_cases hk : k = a
    · rw [List.filter_cons_of_neg (by simp [hk])]; exact ih h4
    · rw [List.filter_cons_of_pos (by simpa using hk)]
      exact (Memory.wf_cons ..).2 ⟨h1, h2, fun c hc => h3 c (List.mem_filter.1 hc).1, ih h4⟩

theorem Memory.mem_insert (m : Memory) (a : Nat) (b : Byte) (c : Host.Cell)
    (h : c ∈ Memory.insert a b m) : c = (a, b) ∨ c ∈ m := by
  induction m with
  | nil => simpa [Memory.insert] using h
  | cons d m ih =>
    simp only [Memory.insert] at h
    split at h
    · simpa using h
    · rcases List.mem_cons.1 h with h | h
      · exact .inr (h ▸ List.mem_cons_self)
      · exact (ih h).imp_right (List.mem_cons_of_mem _)

theorem Memory.wf_insert (m : Memory) (a : Nat) (b : Byte) (h : Memory.wf m = true) (ha : a < 4096)
    (hb : b ≠ initialByte a) (hm : ∀ c ∈ m, c.1 ≠ a) : Memory.wf (Memory.insert a b m) = true := by
  induction m with
  | nil => exact (Memory.wf_cons ..).2 ⟨ha, hb, by simp, rfl⟩
  | cons c m ih =>
    obtain ⟨k, d⟩ := c
    obtain ⟨h1, h2, h3, h4⟩ := (Memory.wf_cons k d m).1 h
    have hk : k ≠ a := hm (k, d) (by simp)
    simp only [Memory.insert]
    split
    · next hlt =>
      refine (Memory.wf_cons ..).2 ⟨ha, hb, fun c hc => ?_, h⟩
      rcases List.mem_cons.1 hc with rfl | hc
      · exact hlt
      · exact Nat.lt_trans hlt (h3 c hc)
    · next hlt =>
      refine (Memory.wf_cons ..).2 ⟨h1, h2, fun c hc => ?_, ih h4 (fun c hc => hm c (by simp [hc]))⟩
      rcases Memory.mem_insert m a b c hc with rfl | hc
      · show k < a; omega
      · exact h3 c hc

/-- A write to an existing address keeps the canonical form. -/
theorem Memory.wf_write (m : Memory) (a : Nat) (b : Byte) (h : Memory.wf m = true) (ha : a < 4096) :
    Memory.wf (Memory.write m a b) = true := by
  simp only [Memory.write]
  split
  · exact Memory.wf_filter m a h
  · next hb => exact Memory.wf_insert _ a b (Memory.wf_filter m a h) ha hb (by simp)

/-- A write of bytes to existing addresses keeps the canonical form. -/
theorem Memory.wf_writeList (m : Memory) (a : Nat) (bs : List Byte) (h : Memory.wf m = true)
    (ha : a + bs.length ≤ 4096) : Memory.wf (Memory.writeList m a bs) = true := by
  induction bs generalizing m a with
  | nil => exact h
  | cons b bs ih =>
    simp only [List.length_cons] at ha
    exact ih _ _ (Memory.wf_write m a b h (by omega)) (by omega)

theorem State.reset_mem_wf : State.reset.mem.wf = true := rfl

/-! ## Operands over memory and registers -/

theorem rangeExists_iff (base : Word) (k : Nat) : rangeExists base k = true ↔ base.toNat + k < 4096 := by
  simp [rangeExists]

@[simp] theorem State.length_regsUpTo (s : State) (x : Reg) : (s.regsUpTo x).length = x.val + 1 := by
  simp [State.regsUpTo]

theorem State.getElem_regsUpTo (s : State) (x r : Reg) (h : r ≤ x) :
    (s.regsUpTo x)[r.val]'(by simp; omega) = s.reg r := by
  simp [State.regsUpTo, State.reg]

@[simp] theorem length_decimalDigits (b : Byte) : (decimalDigits b).length = 3 := rfl

/-- A load of `n` registers: each below `n` from its address, the others unchanged (42 R165). -/
theorem getElem_loadRegs (m : Memory) (base n : Nat) (v : Vector Byte 16) (i : Nat) (hi : i < 16) :
    (loadRegs m base n v)[i] = if i < n then m.read (base + i) else v[i] := by
  induction n with
  | zero => simp [loadRegs]
  | succ n ih =>
    simp only [loadRegs, Vector.getElem_setIfInBounds, ih]
    by_cases h : n = i
    · subst h; simp
    · simp only [h, if_false]
      split <;> split <;> first | rfl | omega

/-- A key index exists exactly for 0 to 15 (45 R193). -/
theorem keyIndex_of_lt (b : Byte) (h : b.toNat < 16) : keyIndex b = some ⟨b.toNat, h⟩ := dif_pos h

theorem keyIndex_of_le (b : Byte) (h : 16 ≤ b.toNat) : keyIndex b = none := dif_neg (by omega)

end Sys2Proof.Machine
end

