-- ==== Sys2Proof/Laws/State.lean ====
section
/-! SUPPORT. What each named update of the state leaves in each field: one lemma per field per update. -/

namespace Sys2Proof.Machine

open Sys2Proof

variable (s : State)


@[simp] theorem State.setReg_v (r : Reg) (b : Byte) : (s.setReg r b).v = s.v.set r.val b r.isLt := rfl
@[simp] theorem State.setReg_pc (r : Reg) (b : Byte) : (s.setReg r b).pc = s.pc := rfl
@[simp] theorem State.setReg_index (r : Reg) (b : Byte) : (s.setReg r b).index = s.index := rfl
@[simp] theorem State.setReg_stack (r : Reg) (b : Byte) : (s.setReg r b).stack = s.stack := rfl
@[simp] theorem State.setReg_sp (r : Reg) (b : Byte) : (s.setReg r b).sp = s.sp := rfl
@[simp] theorem State.setReg_dt (r : Reg) (b : Byte) : (s.setReg r b).dt = s.dt := rfl
@[simp] theorem State.setReg_st (r : Reg) (b : Byte) : (s.setReg r b).st = s.st := rfl
@[simp] theorem State.setReg_keys (r : Reg) (b : Byte) : (s.setReg r b).keys = s.keys := rfl
@[simp] theorem State.setReg_fb (r : Reg) (b : Byte) : (s.setReg r b).fb = s.fb := rfl
@[simp] theorem State.setReg_dirty (r : Reg) (b : Byte) : (s.setReg r b).dirty = s.dirty := rfl
@[simp] theorem State.setReg_rng (r : Reg) (b : Byte) : (s.setReg r b).rng = s.rng := rfl
@[simp] theorem State.setReg_mem (r : Reg) (b : Byte) : (s.setReg r b).mem = s.mem := rfl
@[simp] theorem State.setReg_status (r : Reg) (b : Byte) : (s.setReg r b).status = s.status := rfl
@[simp] theorem State.setReg_cause (r : Reg) (b : Byte) : (s.setReg r b).cause = s.cause := rfl
@[simp] theorem State.setReg_faultInfo (r : Reg) (b : Byte) : (s.setReg r b).faultInfo = s.faultInfo := rfl

@[simp] theorem State.setRegs_v (v : Vector Byte 16) : (s.setRegs v).v = v := rfl
@[simp] theorem State.setRegs_pc (v : Vector Byte 16) : (s.setRegs v).pc = s.pc := rfl
@[simp] theorem State.setRegs_index (v : Vector Byte 16) : (s.setRegs v).index = s.index := rfl
@[simp] theorem State.setRegs_stack (v : Vector Byte 16) : (s.setRegs v).stack = s.stack := rfl
@[simp] theorem State.setRegs_sp (v : Vector Byte 16) : (s.setRegs v).sp = s.sp := rfl
@[simp] theorem State.setRegs_dt (v : Vector Byte 16) : (s.setRegs v).dt = s.dt := rfl
@[simp] theorem State.setRegs_st (v : Vector Byte 16) : (s.setRegs v).st = s.st := rfl
@[simp] theorem State.setRegs_keys (v : Vector Byte 16) : (s.setRegs v).keys = s.keys := rfl
@[simp] theorem State.setRegs_fb (v : Vector Byte 16) : (s.setRegs v).fb = s.fb := rfl
@[simp] theorem State.setRegs_dirty (v : Vector Byte 16) : (s.setRegs v).dirty = s.dirty := rfl
@[simp] theorem State.setRegs_rng (v : Vector Byte 16) : (s.setRegs v).rng = s.rng := rfl
@[simp] theorem State.setRegs_mem (v : Vector Byte 16) : (s.setRegs v).mem = s.mem := rfl
@[simp] theorem State.setRegs_status (v : Vector Byte 16) : (s.setRegs v).status = s.status := rfl
@[simp] theorem State.setRegs_cause (v : Vector Byte 16) : (s.setRegs v).cause = s.cause := rfl
@[simp] theorem State.setRegs_faultInfo (v : Vector Byte 16) : (s.setRegs v).faultInfo = s.faultInfo := rfl

@[simp] theorem State.setFlag_v (c : Bool) : (s.setFlag c).v = s.v.set 15 (flagByte c) := rfl
@[simp] theorem State.setFlag_pc (c : Bool) : (s.setFlag c).pc = s.pc := rfl
@[simp] theorem State.setFlag_index (c : Bool) : (s.setFlag c).index = s.index := rfl
@[simp] theorem State.setFlag_stack (c : Bool) : (s.setFlag c).stack = s.stack := rfl
@[simp] theorem State.setFlag_sp (c : Bool) : (s.setFlag c).sp = s.sp := rfl
@[simp] theorem State.setFlag_dt (c : Bool) : (s.setFlag c).dt = s.dt := rfl
@[simp] theorem State.setFlag_st (c : Bool) : (s.setFlag c).st = s.st := rfl
@[simp] theorem State.setFlag_keys (c : Bool) : (s.setFlag c).keys = s.keys := rfl
@[simp] theorem State.setFlag_fb (c : Bool) : (s.setFlag c).fb = s.fb := rfl
@[simp] theorem State.setFlag_dirty (c : Bool) : (s.setFlag c).dirty = s.dirty := rfl
@[simp] theorem State.setFlag_rng (c : Bool) : (s.setFlag c).rng = s.rng := rfl
@[simp] theorem State.setFlag_mem (c : Bool) : (s.setFlag c).mem = s.mem := rfl
@[simp] theorem State.setFlag_status (c : Bool) : (s.setFlag c).status = s.status := rfl
@[simp] theorem State.setFlag_cause (c : Bool) : (s.setFlag c).cause = s.cause := rfl
@[simp] theorem State.setFlag_faultInfo (c : Bool) : (s.setFlag c).faultInfo = s.faultInfo := rfl

@[simp] theorem State.setIndex_v (a : Word) : (s.setIndex a).v = s.v := rfl
@[simp] theorem State.setIndex_pc (a : Word) : (s.setIndex a).pc = s.pc := rfl
@[simp] theorem State.setIndex_index (a : Word) : (s.setIndex a).index = a := rfl
@[simp] theorem State.setIndex_stack (a : Word) : (s.setIndex a).stack = s.stack := rfl
@[simp] theorem State.setIndex_sp (a : Word) : (s.setIndex a).sp = s.sp := rfl
@[simp] theorem State.setIndex_dt (a : Word) : (s.setIndex a).dt = s.dt := rfl
@[simp] theorem State.setIndex_st (a : Word) : (s.setIndex a).st = s.st := rfl
@[simp] theorem State.setIndex_keys (a : Word) : (s.setIndex a).keys = s.keys := rfl
@[simp] theorem State.setIndex_fb (a : Word) : (s.setIndex a).fb = s.fb := rfl
@[simp] theorem State.setIndex_dirty (a : Word) : (s.setIndex a).dirty = s.dirty := rfl
@[simp] theorem State.setIndex_rng (a : Word) : (s.setIndex a).rng = s.rng := rfl
@[simp] theorem State.setIndex_mem (a : Word) : (s.setIndex a).mem = s.mem := rfl
@[simp] theorem State.setIndex_status (a : Word) : (s.setIndex a).status = s.status := rfl
@[simp] theorem State.setIndex_cause (a : Word) : (s.setIndex a).cause = s.cause := rfl
@[simp] theorem State.setIndex_faultInfo (a : Word) : (s.setIndex a).faultInfo = s.faultInfo := rfl

@[simp] theorem State.setDelay_v (b : Byte) : (s.setDelay b).v = s.v := rfl
@[simp] theorem State.setDelay_pc (b : Byte) : (s.setDelay b).pc = s.pc := rfl
@[simp] theorem State.setDelay_index (b : Byte) : (s.setDelay b).index = s.index := rfl
@[simp] theorem State.setDelay_stack (b : Byte) : (s.setDelay b).stack = s.stack := rfl
@[simp] theorem State.setDelay_sp (b : Byte) : (s.setDelay b).sp = s.sp := rfl
@[simp] theorem State.setDelay_dt (b : Byte) : (s.setDelay b).dt = b := rfl
@[simp] theorem State.setDelay_st (b : Byte) : (s.setDelay b).st = s.st := rfl
@[simp] theorem State.setDelay_keys (b : Byte) : (s.setDelay b).keys = s.keys := rfl
@[simp] theorem State.setDelay_fb (b : Byte) : (s.setDelay b).fb = s.fb := rfl
@[simp] theorem State.setDelay_dirty (b : Byte) : (s.setDelay b).dirty = s.dirty := rfl
@[simp] theorem State.setDelay_rng (b : Byte) : (s.setDelay b).rng = s.rng := rfl
@[simp] theorem State.setDelay_mem (b : Byte) : (s.setDelay b).mem = s.mem := rfl
@[simp] theorem State.setDelay_status (b : Byte) : (s.setDelay b).status = s.status := rfl
@[simp] theorem State.setDelay_cause (b : Byte) : (s.setDelay b).cause = s.cause := rfl
@[simp] theorem State.setDelay_faultInfo (b : Byte) : (s.setDelay b).faultInfo = s.faultInfo := rfl

@[simp] theorem State.setSound_v (b : Byte) : (s.setSound b).v = s.v := rfl
@[simp] theorem State.setSound_pc (b : Byte) : (s.setSound b).pc = s.pc := rfl
@[simp] theorem State.setSound_index (b : Byte) : (s.setSound b).index = s.index := rfl
@[simp] theorem State.setSound_stack (b : Byte) : (s.setSound b).stack = s.stack := rfl
@[simp] theorem State.setSound_sp (b : Byte) : (s.setSound b).sp = s.sp := rfl
@[simp] theorem State.setSound_dt (b : Byte) : (s.setSound b).dt = s.dt := rfl
@[simp] theorem State.setSound_st (b : Byte) : (s.setSound b).st = b := rfl
@[simp] theorem State.setSound_keys (b : Byte) : (s.setSound b).keys = s.keys := rfl
@[simp] theorem State.setSound_fb (b : Byte) : (s.setSound b).fb = s.fb := rfl
@[simp] theorem State.setSound_dirty (b : Byte) : (s.setSound b).dirty = s.dirty := rfl
@[simp] theorem State.setSound_rng (b : Byte) : (s.setSound b).rng = s.rng := rfl
@[simp] theorem State.setSound_mem (b : Byte) : (s.setSound b).mem = s.mem := rfl
@[simp] theorem State.setSound_status (b : Byte) : (s.setSound b).status = s.status := rfl
@[simp] theorem State.setSound_cause (b : Byte) : (s.setSound b).cause = s.cause := rfl
@[simp] theorem State.setSound_faultInfo (b : Byte) : (s.setSound b).faultInfo = s.faultInfo := rfl

@[simp] theorem State.setRng_v (r : Word) : (s.setRng r).v = s.v := rfl
@[simp] theorem State.setRng_pc (r : Word) : (s.setRng r).pc = s.pc := rfl
@[simp] theorem State.setRng_index (r : Word) : (s.setRng r).index = s.index := rfl
@[simp] theorem State.setRng_stack (r : Word) : (s.setRng r).stack = s.stack := rfl
@[simp] theorem State.setRng_sp (r : Word) : (s.setRng r).sp = s.sp := rfl
@[simp] theorem State.setRng_dt (r : Word) : (s.setRng r).dt = s.dt := rfl
@[simp] theorem State.setRng_st (r : Word) : (s.setRng r).st = s.st := rfl
@[simp] theorem State.setRng_keys (r : Word) : (s.setRng r).keys = s.keys := rfl
@[simp] theorem State.setRng_fb (r : Word) : (s.setRng r).fb = s.fb := rfl
@[simp] theorem State.setRng_dirty (r : Word) : (s.setRng r).dirty = s.dirty := rfl
@[simp] theorem State.setRng_rng (r : Word) : (s.setRng r).rng = r := rfl
@[simp] theorem State.setRng_mem (r : Word) : (s.setRng r).mem = s.mem := rfl
@[simp] theorem State.setRng_status (r : Word) : (s.setRng r).status = s.status := rfl
@[simp] theorem State.setRng_cause (r : Word) : (s.setRng r).cause = s.cause := rfl
@[simp] theorem State.setRng_faultInfo (r : Word) : (s.setRng r).faultInfo = s.faultInfo := rfl

@[simp] theorem State.setMem_v (m : Memory) : (s.setMem m).v = s.v := rfl
@[simp] theorem State.setMem_pc (m : Memory) : (s.setMem m).pc = s.pc := rfl
@[simp] theorem State.setMem_index (m : Memory) : (s.setMem m).index = s.index := rfl
@[simp] theorem State.setMem_stack (m : Memory) : (s.setMem m).stack = s.stack := rfl
@[simp] theorem State.setMem_sp (m : Memory) : (s.setMem m).sp = s.sp := rfl
@[simp] theorem State.setMem_dt (m : Memory) : (s.setMem m).dt = s.dt := rfl
@[simp] theorem State.setMem_st (m : Memory) : (s.setMem m).st = s.st := rfl
@[simp] theorem State.setMem_keys (m : Memory) : (s.setMem m).keys = s.keys := rfl
@[simp] theorem State.setMem_fb (m : Memory) : (s.setMem m).fb = s.fb := rfl
@[simp] theorem State.setMem_dirty (m : Memory) : (s.setMem m).dirty = s.dirty := rfl
@[simp] theorem State.setMem_rng (m : Memory) : (s.setMem m).rng = s.rng := rfl
@[simp] theorem State.setMem_mem (m : Memory) : (s.setMem m).mem = m := rfl
@[simp] theorem State.setMem_status (m : Memory) : (s.setMem m).status = s.status := rfl
@[simp] theorem State.setMem_cause (m : Memory) : (s.setMem m).cause = s.cause := rfl
@[simp] theorem State.setMem_faultInfo (m : Memory) : (s.setMem m).faultInfo = s.faultInfo := rfl

@[simp] theorem State.setFrame_v (f : Frame) : (s.setFrame f).v = s.v := rfl
@[simp] theorem State.setFrame_pc (f : Frame) : (s.setFrame f).pc = s.pc := rfl
@[simp] theorem State.setFrame_index (f : Frame) : (s.setFrame f).index = s.index := rfl
@[simp] theorem State.setFrame_stack (f : Frame) : (s.setFrame f).stack = s.stack := rfl
@[simp] theorem State.setFrame_sp (f : Frame) : (s.setFrame f).sp = s.sp := rfl
@[simp] theorem State.setFrame_dt (f : Frame) : (s.setFrame f).dt = s.dt := rfl
@[simp] theorem State.setFrame_st (f : Frame) : (s.setFrame f).st = s.st := rfl
@[simp] theorem State.setFrame_keys (f : Frame) : (s.setFrame f).keys = s.keys := rfl
@[simp] theorem State.setFrame_fb (f : Frame) : (s.setFrame f).fb = f := rfl
@[simp] theorem State.setFrame_dirty (f : Frame) : (s.setFrame f).dirty = true := rfl
@[simp] theorem State.setFrame_rng (f : Frame) : (s.setFrame f).rng = s.rng := rfl
@[simp] theorem State.setFrame_mem (f : Frame) : (s.setFrame f).mem = s.mem := rfl
@[simp] theorem State.setFrame_status (f : Frame) : (s.setFrame f).status = s.status := rfl
@[simp] theorem State.setFrame_cause (f : Frame) : (s.setFrame f).cause = s.cause := rfl
@[simp] theorem State.setFrame_faultInfo (f : Frame) : (s.setFrame f).faultInfo = s.faultInfo := rfl

@[simp] theorem State.jump_v (a : Word) : (s.jump a).v = s.v := rfl
@[simp] theorem State.jump_pc (a : Word) : (s.jump a).pc = a := rfl
@[simp] theorem State.jump_index (a : Word) : (s.jump a).index = s.index := rfl
@[simp] theorem State.jump_stack (a : Word) : (s.jump a).stack = s.stack := rfl
@[simp] theorem State.jump_sp (a : Word) : (s.jump a).sp = s.sp := rfl
@[simp] theorem State.jump_dt (a : Word) : (s.jump a).dt = s.dt := rfl
@[simp] theorem State.jump_st (a : Word) : (s.jump a).st = s.st := rfl
@[simp] theorem State.jump_keys (a : Word) : (s.jump a).keys = s.keys := rfl
@[simp] theorem State.jump_fb (a : Word) : (s.jump a).fb = s.fb := rfl
@[simp] theorem State.jump_dirty (a : Word) : (s.jump a).dirty = s.dirty := rfl
@[simp] theorem State.jump_rng (a : Word) : (s.jump a).rng = s.rng := rfl
@[simp] theorem State.jump_mem (a : Word) : (s.jump a).mem = s.mem := rfl
@[simp] theorem State.jump_status (a : Word) : (s.jump a).status = s.status := rfl
@[simp] theorem State.jump_cause (a : Word) : (s.jump a).cause = s.cause := rfl
@[simp] theorem State.jump_faultInfo (a : Word) : (s.jump a).faultInfo = s.faultInfo := rfl

@[simp] theorem State.advance_v : s.advance.v = s.v := rfl
@[simp] theorem State.advance_pc : s.advance.pc = s.pc + 2 := rfl
@[simp] theorem State.advance_index : s.advance.index = s.index := rfl
@[simp] theorem State.advance_stack : s.advance.stack = s.stack := rfl
@[simp] theorem State.advance_sp : s.advance.sp = s.sp := rfl
@[simp] theorem State.advance_dt : s.advance.dt = s.dt := rfl
@[simp] theorem State.advance_st : s.advance.st = s.st := rfl
@[simp] theorem State.advance_keys : s.advance.keys = s.keys := rfl
@[simp] theorem State.advance_fb : s.advance.fb = s.fb := rfl
@[simp] theorem State.advance_dirty : s.advance.dirty = s.dirty := rfl
@[simp] theorem State.advance_rng : s.advance.rng = s.rng := rfl
@[simp] theorem State.advance_mem : s.advance.mem = s.mem := rfl
@[simp] theorem State.advance_status : s.advance.status = s.status := rfl
@[simp] theorem State.advance_cause : s.advance.cause = s.cause := rfl
@[simp] theorem State.advance_faultInfo : s.advance.faultInfo = s.faultInfo := rfl

@[simp] theorem State.skip_v : s.skip.v = s.v := rfl
@[simp] theorem State.skip_pc : s.skip.pc = s.pc + 4 := rfl
@[simp] theorem State.skip_index : s.skip.index = s.index := rfl
@[simp] theorem State.skip_stack : s.skip.stack = s.stack := rfl
@[simp] theorem State.skip_sp : s.skip.sp = s.sp := rfl
@[simp] theorem State.skip_dt : s.skip.dt = s.dt := rfl
@[simp] theorem State.skip_st : s.skip.st = s.st := rfl
@[simp] theorem State.skip_keys : s.skip.keys = s.keys := rfl
@[simp] theorem State.skip_fb : s.skip.fb = s.fb := rfl
@[simp] theorem State.skip_dirty : s.skip.dirty = s.dirty := rfl
@[simp] theorem State.skip_rng : s.skip.rng = s.rng := rfl
@[simp] theorem State.skip_mem : s.skip.mem = s.mem := rfl
@[simp] theorem State.skip_status : s.skip.status = s.status := rfl
@[simp] theorem State.skip_cause : s.skip.cause = s.cause := rfl
@[simp] theorem State.skip_faultInfo : s.skip.faultInfo = s.faultInfo := rfl

@[simp] theorem State.push_v (a : Word) (h : s.sp.val < 16) : (s.push a h).v = s.v := rfl
@[simp] theorem State.push_pc (a : Word) (h : s.sp.val < 16) : (s.push a h).pc = s.pc := rfl
@[simp] theorem State.push_index (a : Word) (h : s.sp.val < 16) : (s.push a h).index = s.index := rfl
@[simp] theorem State.push_stack (a : Word) (h : s.sp.val < 16) : (s.push a h).stack = s.stack.set s.sp.val a h := rfl
@[simp] theorem State.push_sp (a : Word) (h : s.sp.val < 16) : (s.push a h).sp = ⟨s.sp.val + 1, Nat.succ_lt_succ h⟩ := rfl
@[simp] theorem State.push_dt (a : Word) (h : s.sp.val < 16) : (s.push a h).dt = s.dt := rfl
@[simp] theorem State.push_st (a : Word) (h : s.sp.val < 16) : (s.push a h).st = s.st := rfl
@[simp] theorem State.push_keys (a : Word) (h : s.sp.val < 16) : (s.push a h).keys = s.keys := rfl
@[simp] theorem State.push_fb (a : Word) (h : s.sp.val < 16) : (s.push a h).fb = s.fb := rfl
@[simp] theorem State.push_dirty (a : Word) (h : s.sp.val < 16) : (s.push a h).dirty = s.dirty := rfl
@[simp] theorem State.push_rng (a : Word) (h : s.sp.val < 16) : (s.push a h).rng = s.rng := rfl
@[simp] theorem State.push_mem (a : Word) (h : s.sp.val < 16) : (s.push a h).mem = s.mem := rfl
@[simp] theorem State.push_status (a : Word) (h : s.sp.val < 16) : (s.push a h).status = s.status := rfl
@[simp] theorem State.push_cause (a : Word) (h : s.sp.val < 16) : (s.push a h).cause = s.cause := rfl
@[simp] theorem State.push_faultInfo (a : Word) (h : s.sp.val < 16) : (s.push a h).faultInfo = s.faultInfo := rfl

@[simp] theorem State.pop_v : s.pop.v = s.v := rfl
@[simp] theorem State.pop_pc : s.pop.pc = s.pc := rfl
@[simp] theorem State.pop_index : s.pop.index = s.index := rfl
@[simp] theorem State.pop_stack : s.pop.stack = s.stack := rfl
@[simp] theorem State.pop_sp : s.pop.sp = ⟨s.sp.val - 1, Nat.lt_of_le_of_lt (Nat.sub_le _ _) s.sp.isLt⟩ := rfl
@[simp] theorem State.pop_dt : s.pop.dt = s.dt := rfl
@[simp] theorem State.pop_st : s.pop.st = s.st := rfl
@[simp] theorem State.pop_keys : s.pop.keys = s.keys := rfl
@[simp] theorem State.pop_fb : s.pop.fb = s.fb := rfl
@[simp] theorem State.pop_dirty : s.pop.dirty = s.dirty := rfl
@[simp] theorem State.pop_rng : s.pop.rng = s.rng := rfl
@[simp] theorem State.pop_mem : s.pop.mem = s.mem := rfl
@[simp] theorem State.pop_status : s.pop.status = s.status := rfl
@[simp] theorem State.pop_cause : s.pop.cause = s.cause := rfl
@[simp] theorem State.pop_faultInfo : s.pop.faultInfo = s.faultInfo := rfl

@[simp] theorem State.raise_v (k : FaultKind) (info : Word) : (s.raise k info).v = s.v := rfl
@[simp] theorem State.raise_pc (k : FaultKind) (info : Word) : (s.raise k info).pc = s.pc := rfl
@[simp] theorem State.raise_index (k : FaultKind) (info : Word) : (s.raise k info).index = s.index := rfl
@[simp] theorem State.raise_stack (k : FaultKind) (info : Word) : (s.raise k info).stack = s.stack := rfl
@[simp] theorem State.raise_sp (k : FaultKind) (info : Word) : (s.raise k info).sp = s.sp := rfl
@[simp] theorem State.raise_dt (k : FaultKind) (info : Word) : (s.raise k info).dt = s.dt := rfl
@[simp] theorem State.raise_st (k : FaultKind) (info : Word) : (s.raise k info).st = s.st := rfl
@[simp] theorem State.raise_keys (k : FaultKind) (info : Word) : (s.raise k info).keys = s.keys := rfl
@[simp] theorem State.raise_fb (k : FaultKind) (info : Word) : (s.raise k info).fb = s.fb := rfl
@[simp] theorem State.raise_dirty (k : FaultKind) (info : Word) : (s.raise k info).dirty = s.dirty := rfl
@[simp] theorem State.raise_rng (k : FaultKind) (info : Word) : (s.raise k info).rng = s.rng := rfl
@[simp] theorem State.raise_mem (k : FaultKind) (info : Word) : (s.raise k info).mem = s.mem := rfl
@[simp] theorem State.raise_status (k : FaultKind) (info : Word) : (s.raise k info).status = .faulted := rfl
@[simp] theorem State.raise_cause (k : FaultKind) (info : Word) : (s.raise k info).cause = k.code := rfl
@[simp] theorem State.raise_faultInfo (k : FaultKind) (info : Word) : (s.raise k info).faultInfo = info := rfl

@[simp] theorem State.tick_v : s.tick.v = s.v := rfl
@[simp] theorem State.tick_pc : s.tick.pc = s.pc := rfl
@[simp] theorem State.tick_index : s.tick.index = s.index := rfl
@[simp] theorem State.tick_stack : s.tick.stack = s.stack := rfl
@[simp] theorem State.tick_sp : s.tick.sp = s.sp := rfl
@[simp] theorem State.tick_dt : s.tick.dt = tickTimer s.dt := rfl
@[simp] theorem State.tick_st : s.tick.st = tickTimer s.st := rfl
@[simp] theorem State.tick_keys : s.tick.keys = s.keys := rfl
@[simp] theorem State.tick_fb : s.tick.fb = s.fb := rfl
@[simp] theorem State.tick_dirty : s.tick.dirty = s.dirty := rfl
@[simp] theorem State.tick_rng : s.tick.rng = s.rng := rfl
@[simp] theorem State.tick_mem : s.tick.mem = s.mem := rfl
@[simp] theorem State.tick_status : s.tick.status = s.status := rfl
@[simp] theorem State.tick_cause : s.tick.cause = s.cause := rfl
@[simp] theorem State.tick_faultInfo : s.tick.faultInfo = s.faultInfo := rfl

@[simp] theorem State.skipIf_v (c : Bool) : (s.skipIf c).v = s.v := by cases c <;> rfl
@[simp] theorem State.skipIf_index (c : Bool) : (s.skipIf c).index = s.index := by cases c <;> rfl
@[simp] theorem State.skipIf_stack (c : Bool) : (s.skipIf c).stack = s.stack := by cases c <;> rfl
@[simp] theorem State.skipIf_sp (c : Bool) : (s.skipIf c).sp = s.sp := by cases c <;> rfl
@[simp] theorem State.skipIf_dt (c : Bool) : (s.skipIf c).dt = s.dt := by cases c <;> rfl
@[simp] theorem State.skipIf_st (c : Bool) : (s.skipIf c).st = s.st := by cases c <;> rfl
@[simp] theorem State.skipIf_keys (c : Bool) : (s.skipIf c).keys = s.keys := by cases c <;> rfl
@[simp] theorem State.skipIf_fb (c : Bool) : (s.skipIf c).fb = s.fb := by cases c <;> rfl
@[simp] theorem State.skipIf_dirty (c : Bool) : (s.skipIf c).dirty = s.dirty := by cases c <;> rfl
@[simp] theorem State.skipIf_rng (c : Bool) : (s.skipIf c).rng = s.rng := by cases c <;> rfl
@[simp] theorem State.skipIf_mem (c : Bool) : (s.skipIf c).mem = s.mem := by cases c <;> rfl
@[simp] theorem State.skipIf_status (c : Bool) : (s.skipIf c).status = s.status := by cases c <;> rfl
@[simp] theorem State.skipIf_cause (c : Bool) : (s.skipIf c).cause = s.cause := by cases c <;> rfl
@[simp] theorem State.skipIf_faultInfo (c : Bool) : (s.skipIf c).faultInfo = s.faultInfo := by cases c <;> rfl

theorem State.skipIf_pc (c : Bool) : (s.skipIf c).pc = if c then s.pc + 4 else s.pc + 2 := by cases c <;> rfl

/-! ## One register -/

@[simp] theorem State.reg_setReg (x r : Reg) (b : Byte) :
    (s.setReg x b).reg r = if x = r then b else s.reg r := by
  simp only [State.reg, State.setReg, Vector.getElem_set, Fin.ext_iff]

theorem State.reg_setReg_same (x : Reg) (b : Byte) : (s.setReg x b).reg x = b := by simp

theorem State.reg_setReg_of_ne (x r : Reg) (b : Byte) (h : x ≠ r) : (s.setReg x b).reg r = s.reg r := by
  simp [h]

@[simp] theorem State.reg_setFlag (r : Reg) (c : Bool) :
    (s.setFlag c).reg r = if flagReg = r then flagByte c else s.reg r := State.reg_setReg s flagReg r _

/-- Result first, then flag: with the flag register as destination, the flag stays (41 R152). -/
theorem State.reg_putResult (x r : Reg) (b : Byte) (c : Bool) :
    (s.putResult x b c).reg r = if flagReg = r then flagByte c else if x = r then b else s.reg r := by
  change ((s.setReg x b).setFlag c).reg r = _
  simp

@[simp] theorem State.reg_setIndex (q : Reg) (a : Word) : (s.setIndex a).reg q = s.reg q := rfl
@[simp] theorem State.reg_setDelay (q : Reg) (b : Byte) : (s.setDelay b).reg q = s.reg q := rfl
@[simp] theorem State.reg_setSound (q : Reg) (b : Byte) : (s.setSound b).reg q = s.reg q := rfl
@[simp] theorem State.reg_setRng (q : Reg) (r : Word) : (s.setRng r).reg q = s.reg q := rfl
@[simp] theorem State.reg_setMem (q : Reg) (m : Memory) : (s.setMem m).reg q = s.reg q := rfl
@[simp] theorem State.reg_setFrame (q : Reg) (f : Frame) : (s.setFrame f).reg q = s.reg q := rfl
@[simp] theorem State.reg_jump (q : Reg) (a : Word) : (s.jump a).reg q = s.reg q := rfl
@[simp] theorem State.reg_advance (q : Reg) : s.advance.reg q = s.reg q := rfl
@[simp] theorem State.reg_skip (q : Reg) : s.skip.reg q = s.reg q := rfl
@[simp] theorem State.reg_push (q : Reg) (a : Word) (h : s.sp.val < 16) : (s.push a h).reg q = s.reg q := rfl
@[simp] theorem State.reg_pop (q : Reg) : s.pop.reg q = s.reg q := rfl
@[simp] theorem State.reg_raise (q : Reg) (k : FaultKind) (info : Word) : (s.raise k info).reg q = s.reg q := rfl
@[simp] theorem State.reg_tick (q : Reg) : s.tick.reg q = s.reg q := rfl
@[simp] theorem State.reg_skipIf (r : Reg) (c : Bool) : (s.skipIf c).reg r = s.reg r := by cases c <;> rfl

@[simp] theorem State.putResult_pc (x : Reg) (b : Byte) (c : Bool) : (s.putResult x b c).pc = s.pc + 2 := rfl
@[simp] theorem State.putResult_index (x : Reg) (b : Byte) (c : Bool) : (s.putResult x b c).index = s.index := rfl
@[simp] theorem State.putResult_stack (x : Reg) (b : Byte) (c : Bool) : (s.putResult x b c).stack = s.stack := rfl
@[simp] theorem State.putResult_sp (x : Reg) (b : Byte) (c : Bool) : (s.putResult x b c).sp = s.sp := rfl
@[simp] theorem State.putResult_dt (x : Reg) (b : Byte) (c : Bool) : (s.putResult x b c).dt = s.dt := rfl
@[simp] theorem State.putResult_st (x : Reg) (b : Byte) (c : Bool) : (s.putResult x b c).st = s.st := rfl
@[simp] theorem State.putResult_keys (x : Reg) (b : Byte) (c : Bool) : (s.putResult x b c).keys = s.keys := rfl
@[simp] theorem State.putResult_fb (x : Reg) (b : Byte) (c : Bool) : (s.putResult x b c).fb = s.fb := rfl
@[simp] theorem State.putResult_dirty (x : Reg) (b : Byte) (c : Bool) : (s.putResult x b c).dirty = s.dirty := rfl
@[simp] theorem State.putResult_rng (x : Reg) (b : Byte) (c : Bool) : (s.putResult x b c).rng = s.rng := rfl
@[simp] theorem State.putResult_mem (x : Reg) (b : Byte) (c : Bool) : (s.putResult x b c).mem = s.mem := rfl
@[simp] theorem State.putResult_status (x : Reg) (b : Byte) (c : Bool) : (s.putResult x b c).status = s.status := rfl
@[simp] theorem State.putResult_cause (x : Reg) (b : Byte) (c : Bool) : (s.putResult x b c).cause = s.cause := rfl
@[simp] theorem State.putResult_faultInfo (x : Reg) (b : Byte) (c : Bool) : (s.putResult x b c).faultInfo = s.faultInfo := rfl

end Sys2Proof.Machine
end

