-- ==== Sys2Proof/Laws/Frames.lean ====
section
/-! SUPPORT. The shared operations of the meanings in the terms of Safety.lean: for each, once, the frame of its next state,
the fault it raises, and the numbers it computes. -/

namespace Sys2Proof.Machine

open Sys2Proof

/-! ## Fetch -/

/-- The opcode of two bytes as a number (20_memory.md R65). -/
theorem wordOfBytes_toNat (hi lo : Byte) : (wordOfBytes hi lo).toNat = hi.toNat * 256 + lo.toNat := by
  show (hi ++ lo : BitVec (8 + 8)).toNat = _
  rw [BitVec.toNat_append, ← Nat.shiftLeft_add_eq_or_of_lt (BitVec.isLt _), Nat.shiftLeft_eq]

/-- What a running machine's fetch answers, in the terms of the statements (R65). -/
theorem fetch_eq_some_iff (s : State) (op : Word) (hr : s.status = .running) :
    s.fetch = some op ↔ Fetches s op := by
  constructor
  · intro h
    simp only [State.fetch] at h
    split at h
    · next hp =>
      cases h
      exact ⟨hr, hp, wordOfBytes_toNat _ _⟩
    · cases h
  · rintro ⟨-, hp, hb⟩
    rw [fetch_of_le s hp]
    congr 1
    apply BitVec.eq_of_toNat_eq
    rw [hb, wordOfBytes_toNat]

/-- The only reason to reject 16 bits is that no row has them, and the error names them (30_encoding.md R96). -/
theorem decode_error_eq (op : Word) (e : DecodeError) (h : decode op = .error e) : e = .unrecognized op := by
  simp only [decode, decodeZero, decodeEight, decodeKey, decodeMisc] at h
  repeat' split at h
  all_goals first | (cases h; rfl) | cases h

/-! ## Faults and the tick -/

/-- Raising a fault writes the three fault registers and nothing else (60_exceptions.md R222). -/
theorem faultRaised_raise (k : FaultKind) (info : Word) (s : State) :
    FaultRaised k.code.toNat info s (s.raise k info) := by
  constructor <;> rfl

/-- The tick writes the two timers and nothing else (46_timers.md R200). -/
theorem onlyTimers_tick (s : State) : OnlyTimers (s.dt.toNat - 1) (s.st.toNat - 1) s s.tick := by
  constructor <;> first | rfl | exact tickTimer_toNat _

/-! ## Register results and flags -/

/-- One register and the update next. -/
theorem onlyChanges_setReg (s : State) (x : Reg) (b : Byte) : OnlyChanges { regs := [x] } s (s.setReg x b).advance := by
  constructor <;> simp
  intro r h1 h2; exact absurd h2.symm h1

/-- A flag-producing instruction writes its destination and the flag register (41_register_alu.md R151, R152). -/
theorem onlyChanges_putResult (s : State) (x : Reg) (b : Byte) (c : Bool) :
    OnlyChanges { regs := [x, 15] } s (s.putResult x b c) := by
  constructor <;> simp [State.reg_putResult]
  intro r h1 h2; rw [if_neg (Ne.symm h2), if_neg (Ne.symm h1)]

/-- The flag register ends as the flag, also when it is the destination (R152). -/
theorem reg_flag_putResult (s : State) (x : Reg) (b : Byte) (c : Bool) : (s.putResult x b c).reg 15 = flagByte c := by
  rw [State.reg_putResult, if_pos rfl]

/-- Any other destination ends as the result (R152). -/
theorem reg_dest_putResult (s : State) (x : Reg) (b : Byte) (c : Bool) (h : x ≠ 15) :
    (s.putResult x b c).reg x = b := by
  rw [State.reg_putResult, if_neg (Ne.symm h), if_pos rfl]

/-- The carry as a number (R146). -/
theorem flagByte_carryOut (a b : Byte) :
    (flagByte (carryOut a b)).toNat = if 255 < a.toNat + b.toNat then 1 else 0 := by
  have := a.isLt
  have := b.isLt
  have h : carryOut a b = decide (255 < a.toNat + b.toNat) := by
    simp only [carryOut, BitVec.getLsbD, BitVec.toNat_add, BitVec.toNat_setWidth, Nat.testBit_eq_decide_div_mod_eq]
    congr 1
    apply propext
    omega
  rw [h]
  by_cases h2 : 255 < a.toNat + b.toNat <;> simp [flagByte, h2]

/-- No borrow as a number (R147, R149). -/
theorem flagByte_noBorrow (a b : Byte) : (flagByte (noBorrow a b)).toNat = if b.toNat ≤ a.toNat then 1 else 0 := by
  by_cases h : b.toNat ≤ a.toNat <;> simp [flagByte, noBorrow, h]

/-! ## Operands -/

/-- An immediate address keeps its value (30_encoding.md R93). -/
theorem zextAddr_toNat (a : Addr12) : (zextAddr a).toNat = a.toNat := by
  simp [zextAddr]; omega

theorem zextByte_toNat (b : Byte) : (zextByte b).toNat = b.toNat := by
  simp [zextByte]; omega

/-! ## Stores and loads at `I` (42_index_and_memory.md R166) -/

theorem storeAtIndex_inRange (bs : List Byte) (s : State) (h : s.index.toNat + (bs.length - 1) < 4096) :
    storeAtIndex bs s = .next (s.setMem (s.mem.writeList s.index.toNat bs)).advance :=
  if_pos ((rangeExists_iff _ _).2 h)

theorem storeAtIndex_outOfRange (bs : List Byte) (s : State) (h : 4096 ≤ s.index.toNat + (bs.length - 1)) :
    storeAtIndex bs s = .next (s.raise .memoryOutOfRange s.index) :=
  if_neg (by rw [rangeExists_iff]; omega)

/-- A store of bytes at `I` writes those bytes and nothing else. -/
theorem onlyChanges_storeAtIndex (bs : List Byte) (s : State) :
    OnlyChanges { memFirst := s.index.toNat, memCount := bs.length } s
      (s.setMem (s.mem.writeList s.index.toNat bs)).advance := by
  constructor <;> simp
  intro a ha
  apply Memory.read_writeList_outside; omega

/-- The bytes of a range, one by one. -/
theorem readList_eq_map (m : Memory) (a n : Nat) : m.readList a n = (List.range n).map (fun r => m.read (a + r)) := by
  apply List.ext_getElem
  · simp
  · intro i h1 h2
    rw [Memory.getElem_readList _ _ _ _ (by simpa using h1)]; simp

end Sys2Proof.Machine
end

