-- ==== Sys2Proof/Laws/PerInstr.lean ====
section
/-! SUPPORT. One fact per instruction: its opcode belongs to the row of its own mnemonic in the opcode map (30_encoding.md
R94, R95), and its assembler line assembles to it (R100). -/

open Sys2Proof

/-- The opcode of `i` matches the row of `i`'s mnemonic, and the assembler line of `i` assembles to `i`. -/
def Sys2Proof.Laws.RowMatch.Statement (i : Instr) : Prop :=
  i.asm.assemble = some i ∧ ∃ r ∈ opcodeMap, r.mnemonic = i.mnemonic ∧ encode i &&& r.mask = r.value

theorem Sys2Proof.Laws.RowMatch.cls : Sys2Proof.Laws.RowMatch.Statement (.cls) :=
  ⟨Instr.assemble_asm _, ⟨"CLS", 0x00E0, 0xFFFF⟩, by decide, rfl, rfl⟩

theorem Sys2Proof.Laws.RowMatch.ret : Sys2Proof.Laws.RowMatch.Statement (.ret) :=
  ⟨Instr.assemble_asm _, ⟨"RET", 0x00EE, 0xFFFF⟩, by decide, rfl, rfl⟩

theorem Sys2Proof.Laws.RowMatch.jp (nnn : Addr12) : Sys2Proof.Laws.RowMatch.Statement (.jp nnn) :=
  ⟨Instr.assemble_asm _, ⟨"JP", 0x1000, 0xF000⟩, by decide, rfl, formatNnn_and_major _ _⟩

theorem Sys2Proof.Laws.RowMatch.call (nnn : Addr12) : Sys2Proof.Laws.RowMatch.Statement (.call nnn) :=
  ⟨Instr.assemble_asm _, ⟨"CALL", 0x2000, 0xF000⟩, by decide, rfl, formatNnn_and_major _ _⟩

theorem Sys2Proof.Laws.RowMatch.sei (x : Reg) (kk : Byte) : Sys2Proof.Laws.RowMatch.Statement (.sei x kk) :=
  ⟨Instr.assemble_asm _, ⟨"SEI", 0x3000, 0xF000⟩, by decide, rfl, formatXkk_and_major _ _ _⟩

theorem Sys2Proof.Laws.RowMatch.snei (x : Reg) (kk : Byte) : Sys2Proof.Laws.RowMatch.Statement (.snei x kk) :=
  ⟨Instr.assemble_asm _, ⟨"SNEI", 0x4000, 0xF000⟩, by decide, rfl, formatXkk_and_major _ _ _⟩

theorem Sys2Proof.Laws.RowMatch.ser (x y : Reg) : Sys2Proof.Laws.RowMatch.Statement (.ser x y) :=
  ⟨Instr.assemble_asm _, ⟨"SER", 0x5000, 0xF00F⟩, by decide, rfl, formatXyn_and_n _ _ _ _⟩

theorem Sys2Proof.Laws.RowMatch.ldi (x : Reg) (kk : Byte) : Sys2Proof.Laws.RowMatch.Statement (.ldi x kk) :=
  ⟨Instr.assemble_asm _, ⟨"LDI", 0x6000, 0xF000⟩, by decide, rfl, formatXkk_and_major _ _ _⟩

theorem Sys2Proof.Laws.RowMatch.addi (x : Reg) (kk : Byte) : Sys2Proof.Laws.RowMatch.Statement (.addi x kk) :=
  ⟨Instr.assemble_asm _, ⟨"ADDI", 0x7000, 0xF000⟩, by decide, rfl, formatXkk_and_major _ _ _⟩

theorem Sys2Proof.Laws.RowMatch.mov (x y : Reg) : Sys2Proof.Laws.RowMatch.Statement (.mov x y) :=
  ⟨Instr.assemble_asm _, ⟨"MOV", 0x8000, 0xF00F⟩, by decide, rfl, formatXyn_and_n _ _ _ _⟩

theorem Sys2Proof.Laws.RowMatch.or (x y : Reg) : Sys2Proof.Laws.RowMatch.Statement (.or x y) :=
  ⟨Instr.assemble_asm _, ⟨"OR", 0x8001, 0xF00F⟩, by decide, rfl, formatXyn_and_n _ _ _ _⟩

theorem Sys2Proof.Laws.RowMatch.and (x y : Reg) : Sys2Proof.Laws.RowMatch.Statement (.and x y) :=
  ⟨Instr.assemble_asm _, ⟨"AND", 0x8002, 0xF00F⟩, by decide, rfl, formatXyn_and_n _ _ _ _⟩

theorem Sys2Proof.Laws.RowMatch.xor (x y : Reg) : Sys2Proof.Laws.RowMatch.Statement (.xor x y) :=
  ⟨Instr.assemble_asm _, ⟨"XOR", 0x8003, 0xF00F⟩, by decide, rfl, formatXyn_and_n _ _ _ _⟩

theorem Sys2Proof.Laws.RowMatch.add (x y : Reg) : Sys2Proof.Laws.RowMatch.Statement (.add x y) :=
  ⟨Instr.assemble_asm _, ⟨"ADD", 0x8004, 0xF00F⟩, by decide, rfl, formatXyn_and_n _ _ _ _⟩

theorem Sys2Proof.Laws.RowMatch.sub (x y : Reg) : Sys2Proof.Laws.RowMatch.Statement (.sub x y) :=
  ⟨Instr.assemble_asm _, ⟨"SUB", 0x8005, 0xF00F⟩, by decide, rfl, formatXyn_and_n _ _ _ _⟩

theorem Sys2Proof.Laws.RowMatch.shr (x y : Reg) : Sys2Proof.Laws.RowMatch.Statement (.shr x y) :=
  ⟨Instr.assemble_asm _, ⟨"SHR", 0x8006, 0xF00F⟩, by decide, rfl, formatXyn_and_n _ _ _ _⟩

theorem Sys2Proof.Laws.RowMatch.subn (x y : Reg) : Sys2Proof.Laws.RowMatch.Statement (.subn x y) :=
  ⟨Instr.assemble_asm _, ⟨"SUBN", 0x8007, 0xF00F⟩, by decide, rfl, formatXyn_and_n _ _ _ _⟩

theorem Sys2Proof.Laws.RowMatch.shl (x y : Reg) : Sys2Proof.Laws.RowMatch.Statement (.shl x y) :=
  ⟨Instr.assemble_asm _, ⟨"SHL", 0x800E, 0xF00F⟩, by decide, rfl, formatXyn_and_n _ _ _ _⟩

theorem Sys2Proof.Laws.RowMatch.sner (x y : Reg) : Sys2Proof.Laws.RowMatch.Statement (.sner x y) :=
  ⟨Instr.assemble_asm _, ⟨"SNER", 0x9000, 0xF00F⟩, by decide, rfl, formatXyn_and_n _ _ _ _⟩

theorem Sys2Proof.Laws.RowMatch.ldidx (nnn : Addr12) : Sys2Proof.Laws.RowMatch.Statement (.ldidx nnn) :=
  ⟨Instr.assemble_asm _, ⟨"LDIDX", 0xA000, 0xF000⟩, by decide, rfl, formatNnn_and_major _ _⟩

theorem Sys2Proof.Laws.RowMatch.jpb (nnn : Addr12) : Sys2Proof.Laws.RowMatch.Statement (.jpb nnn) :=
  ⟨Instr.assemble_asm _, ⟨"JPB", 0xB000, 0xF000⟩, by decide, rfl, formatNnn_and_major _ _⟩

theorem Sys2Proof.Laws.RowMatch.rnd (x : Reg) (kk : Byte) : Sys2Proof.Laws.RowMatch.Statement (.rnd x kk) :=
  ⟨Instr.assemble_asm _, ⟨"RND", 0xC000, 0xF000⟩, by decide, rfl, formatXkk_and_major _ _ _⟩

theorem Sys2Proof.Laws.RowMatch.drw (x y : Reg) (n : RowCount) : Sys2Proof.Laws.RowMatch.Statement (.drw x y n) :=
  ⟨Instr.assemble_asm _, ⟨"DRW", 0xD000, 0xF000⟩, by decide, rfl, formatXyn_and_major _ _ _ _⟩

theorem Sys2Proof.Laws.RowMatch.skp (x : Reg) : Sys2Proof.Laws.RowMatch.Statement (.skp x) :=
  ⟨Instr.assemble_asm _, ⟨"SKP", 0xE09E, 0xF0FF⟩, by decide, rfl, formatXkk_and_kk _ _ _⟩

theorem Sys2Proof.Laws.RowMatch.sknp (x : Reg) : Sys2Proof.Laws.RowMatch.Statement (.sknp x) :=
  ⟨Instr.assemble_asm _, ⟨"SKNP", 0xE0A1, 0xF0FF⟩, by decide, rfl, formatXkk_and_kk _ _ _⟩

theorem Sys2Proof.Laws.RowMatch.lddt (x : Reg) : Sys2Proof.Laws.RowMatch.Statement (.lddt x) :=
  ⟨Instr.assemble_asm _, ⟨"LDDT", 0xF007, 0xF0FF⟩, by decide, rfl, formatXkk_and_kk _ _ _⟩

theorem Sys2Proof.Laws.RowMatch.waitk (x : Reg) : Sys2Proof.Laws.RowMatch.Statement (.waitk x) :=
  ⟨Instr.assemble_asm _, ⟨"WAITK", 0xF00A, 0xF0FF⟩, by decide, rfl, formatXkk_and_kk _ _ _⟩

theorem Sys2Proof.Laws.RowMatch.stdt (x : Reg) : Sys2Proof.Laws.RowMatch.Statement (.stdt x) :=
  ⟨Instr.assemble_asm _, ⟨"STDT", 0xF015, 0xF0FF⟩, by decide, rfl, formatXkk_and_kk _ _ _⟩

theorem Sys2Proof.Laws.RowMatch.stst (x : Reg) : Sys2Proof.Laws.RowMatch.Statement (.stst x) :=
  ⟨Instr.assemble_asm _, ⟨"STST", 0xF018, 0xF0FF⟩, by decide, rfl, formatXkk_and_kk _ _ _⟩

theorem Sys2Proof.Laws.RowMatch.addidx (x : Reg) : Sys2Proof.Laws.RowMatch.Statement (.addidx x) :=
  ⟨Instr.assemble_asm _, ⟨"ADDIDX", 0xF01E, 0xF0FF⟩, by decide, rfl, formatXkk_and_kk _ _ _⟩

theorem Sys2Proof.Laws.RowMatch.glyph (x : Reg) : Sys2Proof.Laws.RowMatch.Statement (.glyph x) :=
  ⟨Instr.assemble_asm _, ⟨"GLYPH", 0xF029, 0xF0FF⟩, by decide, rfl, formatXkk_and_kk _ _ _⟩

theorem Sys2Proof.Laws.RowMatch.bcd (x : Reg) : Sys2Proof.Laws.RowMatch.Statement (.bcd x) :=
  ⟨Instr.assemble_asm _, ⟨"BCD", 0xF033, 0xF0FF⟩, by decide, rfl, formatXkk_and_kk _ _ _⟩

theorem Sys2Proof.Laws.RowMatch.stm (x : Reg) : Sys2Proof.Laws.RowMatch.Statement (.stm x) :=
  ⟨Instr.assemble_asm _, ⟨"STM", 0xF055, 0xF0FF⟩, by decide, rfl, formatXkk_and_kk _ _ _⟩

theorem Sys2Proof.Laws.RowMatch.ldm (x : Reg) : Sys2Proof.Laws.RowMatch.Statement (.ldm x) :=
  ⟨Instr.assemble_asm _, ⟨"LDM", 0xF065, 0xF0FF⟩, by decide, rfl, formatXkk_and_kk _ _ _⟩
end

