-- ==== Sys2Proof/Laws/Random.lean ====
section
/-! SUPPORT. What the generator can do, said once, for every bit step (43_random.md R172). -/

namespace Sys2Proof.Machine

open Sys2Proof

/-- `n` rounds: the state is `n` bit steps further, and bit `k` of the byte is the bit drawn in round `k`. -/
theorem genBits_spec (f : Word → Word × Bool) (n : Nat) (r : Word) (hn : n ≤ 8) :
   (genBits f n r).1 = (fun r => (f r).1)^[n] r ∧
     ∀ k, (genBits f n r).2.getLsbD k = (decide (k < n) && (f ((fun r => (f r).1)^[k] r)).2) := by
  induction n with
  | zero => simp [genBits]
  | succ n ih =>
    obtain ⟨h1, h2⟩ := ih (by omega)
    simp only [genBits, Function.iterate_succ_apply', h1, true_and]
    intro k
    split
    · next hb =>
      rw [BitVec.getLsbD_or, h2]
      have e : (1#8 <<< n).getLsbD k = decide (k = n) := by
        rw [BitVec.getLsbD_shiftLeft]
        by_cases hk : k = n
        · subst hk; simp; omega
        · by_cases k < n <;> simp [*] <;> omega
      rw [e]
      by_cases hk : k = n
      · subst hk; simp [hb]
      · by_cases hk2 : k < n
        · simp [hk2, hk, show k < n+1 by omega]
        · simp [hk2, hk, show ¬ k < n+1 by omega]
    · next hb =>
      rw [h2]
      by_cases hk : k = n
      · subst hk; simp [hb]
      · by_cases hk2 : k < n
        · simp [hk2, show k < n+1 by omega]
        · simp [hk2, show ¬ k < n+1 by omega]

end Sys2Proof.Machine
end

