-- ==== Sys2Proof/Tests/Slice0.lean ====
section
/-! SUPPORT. Tests: ill-formed assembler lines, words written out from the encodings, one step on a small state with the
expected values of 95_test_vectors.md, and for every statement with hypotheses a witness that meets them. -/

namespace Sys2Proof.Tests

open Sys2Proof Sys2Proof.Machine

/-! ## Well-formedness (30_encoding.md R100): each check refuses a line that breaks it alone -/

theorem test_ill_formed_unknown_mnemonic : (AsmLine.mk "NOP" []).wellFormed = false := by decide

theorem test_ill_formed_missing_operand : (AsmLine.mk "JP" []).wellFormed = false := by decide

theorem test_ill_formed_extra_operand : (AsmLine.mk "CLS" [.reg 0]).wellFormed = false := by decide

theorem test_ill_formed_operand_kind : (AsmLine.mk "LDI" [.reg 0, .reg 1]).wellFormed = false := by decide

theorem test_ill_formed_register : (AsmLine.mk "MOV" [.reg 0, .reg 16]).wellFormed = false := by decide

theorem test_ill_formed_immediate : (AsmLine.mk "LDI" [.reg 0, .imm 256]).wellFormed = false := by decide

theorem test_ill_formed_address : (AsmLine.mk "JP" [.addr 4096]).wellFormed = false := by decide

theorem test_ill_formed_rows : (AsmLine.mk "DRW" [.reg 0, .reg 1, .rows 16]).wellFormed = false := by decide

theorem test_ill_formed_assembles_to_nothing : (AsmLine.mk "JP" [.addr 4096]).assemble = none := by decide

/-- The largest operand of each field is well formed. -/
theorem test_well_formed_boundaries :
    (AsmLine.mk "LDI" [.reg 15, .imm 255]).assemble = some (.ldi 15 0xFF) ∧
    (AsmLine.mk "JP" [.addr 4095]).assemble = some (.jp 0xFFF) ∧
    (AsmLine.mk "DRW" [.reg 14, .reg 15, .rows 15]).assemble = some (.drw 14 15 15) ∧
    (AsmLine.mk "SHR" [.reg 3]).assemble = some (.shr 3 0) := by decide

/-! ## Decoding: a word written out from R95 for every instruction -/

theorem test_decode_control_flow :
    decode 0b0000000011101110 = .ok .ret ∧ decode 0b0001101010111100 = .ok (.jp 0xABC) ∧
    decode 0b0010001000001010 = .ok (.call 0x20A) ∧ decode 0b0011000100000111 = .ok (.sei 1 0x07) ∧
    decode 0b0100001000000101 = .ok (.snei 2 0x05) ∧ decode 0b0101001101000000 = .ok (.ser 3 4) ∧
    decode 0b1001001101000000 = .ok (.sner 3 4) ∧ decode 0b1011001100000001 = .ok (.jpb 0x301) := by decide

theorem test_decode_alu :
    decode 0b0110101000101100 = .ok (.ldi 10 0x2C) ∧ decode 0b0111000111111111 = .ok (.addi 1 0xFF) ∧
    decode 0b1000000100100000 = .ok (.mov 1 2) ∧ decode 0b1000000100100001 = .ok (.or 1 2) ∧
    decode 0b1000000100100010 = .ok (.and 1 2) ∧ decode 0b1000000100100011 = .ok (.xor 1 2) ∧
    decode 0b1000000100100100 = .ok (.add 1 2) ∧ decode 0b1000000100100101 = .ok (.sub 1 2) ∧
    decode 0b1000001101000110 = .ok (.shr 3 4) ∧ decode 0b1000000100100111 = .ok (.subn 1 2) ∧
    decode 0b1000001101001110 = .ok (.shl 3 4) := by decide

theorem test_decode_index_and_memory :
    decode 0b1010111111111110 = .ok (.ldidx 0xFFE) ∧ decode 0b1111001000011110 = .ok (.addidx 2) ∧
    decode 0b1111000100101001 = .ok (.glyph 1) ∧ decode 0b1111010000110011 = .ok (.bcd 4) ∧
    decode 0b1111100001010101 = .ok (.stm 8) ∧ decode 0b1111111101100101 = .ok (.ldm 15) := by decide

theorem test_decode_random : decode 0b1100001011110000 = .ok (.rnd 2 0xF0) := by decide

theorem test_decode_display :
    decode 0b0000000011100000 = .ok .cls ∧ decode 0b1101000100101111 = .ok (.drw 1 2 15) := by decide

theorem test_decode_keypad :
    decode 0b1110001010011110 = .ok (.skp 2) ∧ decode 0b1110001010100001 = .ok (.sknp 2) ∧
    decode 0b1111111100001010 = .ok (.waitk 15) := by decide

theorem test_decode_timers :
    decode 0b1111000100000111 = .ok (.lddt 1) ∧ decode 0b1111000000010101 = .ok (.stdt 0) ∧
    decode 0b1111010100011000 = .ok (.stst 5) := by decide

/-- T-UNK2 and T-SER3: opcodes beside the recognised ones. -/
theorem test_decode_rejects :
    [0x00E1, 0x01E0, 0x0123, 0x5341, 0x8128, 0x812F, 0xE19F, 0xF100, 0xF175, 0xFFFF].all
      (fun w => (decodeTableWord 16 w).isNone) = true := by decide

/-- Two bytes, the high one first (20_memory.md R65); the rest is not touched, and one byte is no instruction. -/
theorem test_decode_bytes :
    decodeBytes [0x8F, 0x14, 0xAA] = .ok (.add 15 1, [0xAA]) ∧ decodeBytes [0x8F] = .error .truncated := by decide

/-- The opcodes of the vectors, encoded. -/
theorem test_encode :
    encode (.jp 0xABC) = 0x1ABC ∧ encode (.ldi 10 0x2C) = 0x6A2C ∧ encode (.shl 3 4) = 0x834E ∧
    encode (.drw 15 1 1) = 0xDF11 ∧ encode (.ldm 4) = 0xF465 := by decide

/-! ## One step -/

/-- The state after reset, changed, with an opcode where the next step fetches. -/
def start (op : Nat) (edit : State → State) : State := (edit State.reset).withFetchWord 16 op

/-- What a step that answers a next state leaves, seen through `view`. -/
def seen (s : State) (view : State → α) : Option α :=
  match step s with
  | .next t => some (view t)
  | .fault _ => none
  | .refused _ => none

/-- The registers of these numbers and the `pc`. -/
def regsPc (rs : List Reg) (t : State) : List Nat := rs.map (fun r => (t.reg r).toNat) ++ [t.pc.toNat]

/-- The status and the fault registers. -/
def faults (t : State) : Bool × Nat × Nat := (t.status == .faulted, t.cause.toNat, t.faultInfo.toNat)

/-- `n` occupied slots, of which slot 0 holds 0x0204. -/
def withDepth (n : Fin 17) (s : State) : State := { s with sp := n, stack := s.stack.set 0 0x0204 }

/-- Bytes of memory from an address. -/
def withBytes (a : Nat) (bs : List Byte) (s : State) : State := s.setMem (s.mem.writeList a bs)

/-- The key `i` pressed. -/
def pressed (i : Key) (s : State) : State := s.setKey i true

/-- The cell of column `c` and row `r` lit. -/
def lit (c r : Nat) (s : State) : State := { s with fb := flipPixel s.fb c r }

/-- The indices of the lit cells of the first row. -/
def firstRow (t : State) : List Nat := (List.range 64).filter (fun c => pixel t.fb c 0)

/-! ### Control flow -/

/-- T-JP2. -/
theorem test_jp : seen (start 0x1201 id) (regsPc []) = some [0x201] := by decide

/-- T-JPB: `V[0]` is not added. -/
theorem test_jpb : seen (start 0xB300 (·.setReg 0 0x10)) (regsPc []) = some [0x300] := by decide

/-- T-CALL2, the last slot. -/
theorem test_call : seen (start 0x2300 (withDepth 15))
    (fun t => (t.stack[15].toNat, t.sp.val, t.pc.toNat)) = some (0x200, 16, 0x300) := by decide

/-- T-CALL3. -/
theorem test_call_overflow : seen (start 0x2300 (withDepth 16))
    (fun t => (faults t, t.sp.val, t.pc.toNat)) = some ((true, 2, 0x200), 16, 0x200) := by decide

/-- T-RET1: the slot keeps its contents. -/
theorem test_ret : seen (start 0x00EE (fun s => (withDepth 1 s).jump 0x020C))
    (fun t => (t.sp.val, t.pc.toNat, t.stack[0].toNat)) = some (0, 0x206, 0x204) := by decide

/-- T-RET2. -/
theorem test_ret_underflow : seen (start 0x00EE id)
    (fun t => (faults t, t.sp.val, t.pc.toNat)) = some ((true, 3, 0x200), 0, 0x200) := by decide

/-- T-SEI1, T-SEI2. -/
theorem test_sei : seen (start 0x3100 id) (regsPc []) = some [0x204] ∧
    seen (start 0x3100 (·.setReg 1 1)) (regsPc []) = some [0x202] := by decide

/-- T-SNEI1, T-SNEI2. -/
theorem test_snei : seen (start 0x4205 (·.setReg 2 5)) (regsPc []) = some [0x202] ∧
    seen (start 0x4205 (·.setReg 2 6)) (regsPc []) = some [0x204] := by decide

/-- T-SER1, and unequal registers. -/
theorem test_ser : seen (start 0x5340 (fun s => (s.setReg 3 0x7F).setReg 4 0x7F)) (regsPc []) = some [0x204] ∧
    seen (start 0x5340 (·.setReg 4 1)) (regsPc []) = some [0x202] := by decide

/-- T-SNER1, T-SNER2. -/
theorem test_sner : seen (start 0x9340 (fun s => (s.setReg 3 1).setReg 4 2)) (regsPc []) = some [0x204] ∧
    seen (start 0x9330 id) (regsPc []) = some [0x202] := by decide

/-- T-END2: the skip leaves the address space, and its own step does not fault. -/
theorem test_skip_past_the_end :
    seen (start 0x3000 (·.jump 0x0FFE)) (fun t => (t.status == .running, t.pc.toNat)) = some (true, 0x1002) := by decide

/-- T-JP3, second step. -/
theorem test_fetch_out_of_range :
    seen (State.reset.jump 0x0FFF) (fun t => (faults t, t.pc.toNat)) = some ((true, 5, 0xFFF), 0xFFF) := by decide

/-- T-FLT: no tick, no write. -/
theorem test_unrecognized : seen (start 0x0000 (fun s => (s.setDelay 5).setReg 0 9))
    (fun t => (faults t, t.dt.toNat, regsPc [0] t)) = some ((true, 1, 0x0000), 5, [9, 0x200]) := by decide

/-- T-FLT, second trigger. -/
theorem test_no_step_when_faulted :
    step (State.reset.raise .unrecognizedOpcode 0) = .fault .noStepWhenFaulted := rfl

/-! ### Register and ALU -/

/-- T-LDI. -/
theorem test_ldi : seen (start 0x6A2C id) (regsPc [10, 15]) = some [0x2C, 0, 0x202] := by decide

/-- T-ADDI1: no carry flag. -/
theorem test_addi : seen (start 0x7102 (·.setReg 1 0xFF)) (regsPc [1, 15]) = some [1, 0, 0x202] := by decide

/-- T-ADDI3: the flag register is an ordinary destination. -/
theorem test_addi_flag_register : seen (start 0x7F03 (·.setReg 15 0xFE)) (regsPc [15]) = some [1, 0x202] := by decide

/-- T-MOV. -/
theorem test_mov : seen (start 0x8120 (·.setReg 2 0x37)) (regsPc [1, 2]) = some [0x37, 0x37, 0x202] := by decide

/-- The registers of the vectors for the bitwise operations. -/
def bitwiseStart (s : State) : State := ((s.setReg 1 0xF0).setReg 2 0x3C).setReg 15 0x55

/-- T-OR with the operands of T-AND: F0 or 3C is FC. -/
theorem test_or : seen (start 0x8121 bitwiseStart) (regsPc [1, 15]) = some [0xFC, 0x55, 0x202] := by decide

/-- T-AND. -/
theorem test_and : seen (start 0x8122 bitwiseStart) (regsPc [1, 15]) = some [0x30, 0x55, 0x202] := by decide

/-- T-XOR1. -/
theorem test_xor : seen (start 0x8123 bitwiseStart) (regsPc [1, 15]) = some [0xCC, 0x55, 0x202] := by decide

/-- T-ADD1, T-ADD2. -/
theorem test_add : seen (start 0x8124 (·.setReg 1 0xFF)) (regsPc [1, 15]) = some [0xFF, 0, 0x202] ∧
    seen (start 0x8124 (fun s => (s.setReg 1 0xFF).setReg 2 1)) (regsPc [1, 15]) = some [0, 1, 0x202] := by decide

/-- T-ADD6, T-ADD7: the flag register as destination and as source. -/
theorem test_add_flag_register :
    seen (start 0x8F14 (fun s => (s.setReg 15 2).setReg 1 1)) (regsPc [15]) = some [0, 0x202] ∧
    seen (start 0x81F4 (fun s => (s.setReg 1 1).setReg 15 0xFF)) (regsPc [1, 15]) = some [0, 1, 0x202] := by decide

/-- S5 and T-SUB1. -/
theorem test_sub : seen (start 0x8125 (fun s => (s.setReg 1 5).setReg 2 10)) (regsPc [1, 15]) = some [251, 0, 0x202] ∧
    seen (start 0x8125 (fun s => (s.setReg 1 7).setReg 2 7)) (regsPc [1, 15]) = some [0, 1, 0x202] := by decide

/-- T-SUB4. -/
theorem test_sub_flag_register :
    seen (start 0x8F15 (fun s => (s.setReg 15 5).setReg 1 3)) (regsPc [15]) = some [1, 0x202] := by decide

/-- T-SHR1. -/
theorem test_shr :
    seen (start 0x8346 (fun s => (s.setReg 3 5).setReg 4 0xFF)) (regsPc [3, 15, 4]) = some [2, 1, 0xFF, 0x202] := by decide

/-- T-SHR4: the flag, not the shifted value. -/
theorem test_shr_flag_register : seen (start 0x8F06 (·.setReg 15 2)) (regsPc [15]) = some [0, 0x202] := by decide

/-- T-SUBN1, T-SUBN2. -/
theorem test_subn : seen (start 0x8127 (fun s => (s.setReg 1 5).setReg 2 10)) (regsPc [1, 15]) = some [5, 1, 0x202] ∧
    seen (start 0x8127 (fun s => (s.setReg 1 10).setReg 2 5)) (regsPc [1, 15]) = some [0xFB, 0, 0x202] := by decide

/-- T-SUBN4. -/
theorem test_subn_flag_register :
    seen (start 0x8F17 (fun s => (s.setReg 15 5).setReg 1 3)) (regsPc [15]) = some [0, 0x202] := by decide

/-- T-SHL1. -/
theorem test_shl :
    seen (start 0x834E (fun s => (s.setReg 3 0x81).setReg 4 0xFF)) (regsPc [3, 15, 4]) = some [2, 1, 0xFF, 0x202] := by decide

/-- T-SHL4. -/
theorem test_shl_flag_register : seen (start 0x8F0E (·.setReg 15 0x81)) (regsPc [15]) = some [1, 0x202] := by decide

/-! ### Index register and memory -/

/-- T-LDIDX. -/
theorem test_ldidx : seen (start 0xAFFF id) (·.index.toNat) = some 0xFFF := by decide

/-- T-ADDIDX2: no fault, no flag. -/
theorem test_addidx : seen (start 0xF21E (fun s => ((s.setIndex 0x0FFF).setReg 2 1).setReg 15 0x55))
    (fun t => (t.index.toNat, t.status == .running, (t.reg 15).toNat)) = some (0x1000, true, 0x55) := by decide

/-- T-ADDIDX3. -/
theorem test_addidx_wraps :
    seen (start 0xF21E (fun s => (s.setIndex 0xFFFF).setReg 2 2)) (·.index.toNat) = some 1 := by decide

/-- T-GLYPH2. -/
theorem test_glyph : seen (start 0xF029 (·.setReg 0 0x0F)) (·.index.toNat) = some 0x09B := by decide

/-- T-GLYPH4: the whole byte. -/
theorem test_glyph_whole_byte : seen (start 0xF029 (·.setReg 0 0xFF)) (·.index.toNat) = some 0x54B := by decide

/-- T-BCD5. -/
theorem test_bcd : seen (start 0xF033 (fun s => (s.setIndex 0x0FFD).setReg 0 123))
    (fun t => (t.mem.readList 0xFFD 3, t.status == .running)) = some ([1, 2, 3], true) := by decide

/-- T-BCD6. -/
theorem test_bcd_out_of_range : seen (start 0xF033 (fun s => (s.setIndex 0x0FFE).setReg 0 123))
    (fun t => (faults t, t.mem.readList 0xFFE 2)) = some ((true, 4, 0xFFE), [0, 0]) := by decide

/-- T-STM1. -/
theorem test_stm : seen (start 0xF155 (fun s => (((s.setReg 0 0x11).setReg 1 0x22).setReg 2 0x33).setIndex 0x0400))
    (fun t => (t.mem.readList 0x400 3, t.index.toNat)) = some ([0x11, 0x22, 0], 0x400) := by decide

/-- T-STM3. -/
theorem test_stm_out_of_range : seen (start 0xFF55 (fun s => (s.setReg 0 0xA0).setIndex 0x0FF1))
    (fun t => (faults t, (t.mem.read 0xFF1).toNat)) = some ((true, 4, 0xFF1), 0) := by decide

/-- T-LDM1. -/
theorem test_ldm : seen (start 0xF265 (fun s => ((withBytes 0x300 [2, 5, 4] s).setIndex 0x0300).setReg 3 0x99))
    (fun t => (regsPc [0, 1, 2, 3] t, t.index.toNat)) = some ([2, 5, 4, 0x99, 0x202], 0x300) := by decide

/-- T-LDM3. -/
theorem test_ldm_out_of_range : seen (start 0xF165 (fun s => ((s.setIndex 0x0FFF).setReg 0 7).setReg 1 8))
    (fun t => (faults t, regsPc [0, 1] t)) = some ((true, 4, 0xFFF), [7, 8, 0x200]) := by decide

/-! ### Random -/

/-- T-RND0: whatever the generator draws. -/
theorem test_rnd_masked (s : State) : ∃ t, exec (.rnd 1 0x00) s = .next t ∧ t.reg 1 = 0 :=
  ⟨_, rfl, by simp⟩

/-- T-RND with the reference bit step of R175, first two bytes. -/
theorem test_gen_reference :
    genByte Config.referenceStep Config.referenceSeed = (0x22AC, 0x22) ∧
    genByte Config.referenceStep 0x22AC = (0x4722, 0x47) := by decide +kernel

/-! ### Display -/

/-- T-CLS. -/
theorem test_cls : seen (start 0x00E0 (lit 5 0)) (fun t => (firstRow t, t.dirty, (t.reg 15).toNat)) =
    some ([], true, 0) := by decide

/-- T-DRW5: the sprite wraps at the right edge. -/
theorem test_drw_wraps : seen (start 0xD011 (fun s => ((withBytes 0x300 [0xFF] s).setIndex 0x0300).setReg 0 60))
    (fun t => (firstRow t, (t.reg 15).toNat, t.dirty)) = some ([0, 1, 2, 3, 60, 61, 62, 63], 0, true) := by decide

/-- T-DRW2: a lit cell under a 1 goes out and is a collision. -/
theorem test_drw_collision : seen (start 0xD011 (fun s => lit 0 0 ((withBytes 0x300 [0x80] s).setIndex 0x0300)))
    (fun t => (firstRow t, (t.reg 15).toNat)) = some ([], 1) := by decide

/-! ### Keypad -/

/-- T-SKP1, T-SKP2. -/
theorem test_skp : seen (start 0xE29E (fun s => pressed 7 (s.setReg 2 7))) (regsPc []) = some [0x204] ∧
    seen (start 0xE29E (fun s => pressed 8 (s.setReg 2 7))) (regsPc []) = some [0x202] := by decide

/-- T-SKP4: the value is not masked. -/
theorem test_skp_out_of_range : seen (start 0xE29E (fun s => pressed 7 (s.setReg 2 0x17))) faults =
    some (true, 6, 0x17) := by decide

/-- T-SKNP1, T-SKNP2. -/
theorem test_sknp : seen (start 0xE2A1 (·.setReg 2 7)) (regsPc []) = some [0x204] ∧
    seen (start 0xE2A1 (fun s => pressed 7 (s.setReg 2 7))) (regsPc []) = some [0x202] := by decide

/-- T-SKNP3. -/
theorem test_sknp_out_of_range : seen (start 0xE2A1 (·.setReg 2 0xFF)) faults = some (true, 6, 0xFF) := by decide

/-- T-WAITK2. -/
theorem test_waitk : seen (start 0xF20A (fun s => pressed 9 (pressed 7 s))) (regsPc [2]) = some [7, 0x202] := by decide

/-- T-WAITK1, first step. -/
theorem test_waitk_stays : seen (start 0xF20A (fun s => (s.setReg 2 0x55).setDelay 3))
    (fun t => (regsPc [2] t, t.dt.toNat)) = some ([0x55, 0x200], 2) := by decide

/-! ### Timers -/

/-- T-TICK1, first step. -/
theorem test_tick : seen (start 0x1200 (fun s => (s.setDelay 2).setSound 1))
    (fun t => (t.dt.toNat, t.st.toNat)) = some (1, 0) := by decide

/-- T-LDDT: read before the tick. -/
theorem test_lddt : seen (start 0xF107 (·.setDelay 2))
    (fun t => ((t.reg 1).toNat, t.dt.toNat)) = some (2, 1) := by decide

/-- T-STDT1: loaded, then ticked. -/
theorem test_stdt : seen (start 0xF015 (·.setReg 0 3)) (·.dt.toNat) = some 2 := by decide

/-- T-STST. -/
theorem test_stst : seen (start 0xF518 (·.setReg 5 0xFF)) (fun t => (t.st.toNat, t.dt.toNat)) =
    some (0xFE, 0) := by decide

/-! ## Witnesses: for every statement with hypotheses, a state and operands that meet them -/

/-- A running state whose next step fetches `op` and runs `i`, from the bytes at its `pc`. -/
theorem executes_of (s : State) (op : Word) (i : Instr) (hr : s.status = .running) (hp : s.pc.toNat ≤ 0xFFE)
    (hb : op.toNat = (s.mem.read s.pc.toNat).toNat * 256 + (s.mem.read (s.pc.toNat + 1)).toNat)
    (hd : decode op = .ok i) : Executes s op i :=
  ⟨⟨hr, hp, hb⟩, hd⟩

theorem witness_encode_of_decode : decode 0x834E = .ok (.shl 3 4) := by decide

theorem witness_opcode_map_rows : ∃ r ∈ opcodeMap, (0x00E0 : Word) &&& r.mask = r.value := by decide

theorem witness_decode_selects_a_row : decode 0x00E0 = .ok .cls ∧ ∃ r ∈ opcodeMap, (0x00E0 : Word) &&& r.mask = r.value := by
  decide

theorem witness_decode_selects_no_row : ∀ r ∈ opcodeMap, (0x00E1 : Word) &&& r.mask ≠ r.value := by decide

/-- One opcode at the edge of each row of R96's table, and its neighbour that is recognised. -/
theorem witness_unrecognized_listed :
    [0x00E1, 0x5341, 0x8348, 0x834F, 0x9341, 0xE19D, 0xF106, 0xF166].all (fun w => (decodeTableWord 16 w).isNone) = true ∧
    [0x00E0, 0x5340, 0x8347, 0x834E, 0x9340, 0xE19E, 0xF107, 0xF165].all (fun w => (decodeTableWord 16 w).isSome) = true := by
  decide

/-- A jump to itself runs at reset and ends without a fault. -/
theorem witness_step_runs_running : Executes (start 0x1200 id) 0x1200 (.jp 0x200) ∧
    ∃ u, exec (.jp 0x200) (start 0x1200 id) = .next u ∧ u.status = .running :=
  ⟨executes_of _ _ _ rfl (by decide) (by decide) (by decide), _, rfl, rfl⟩

/-- A return on the empty stack runs at reset and ends in a fault. -/
theorem witness_step_runs_faulted : Executes (start 0x00EE id) 0x00EE .ret ∧
    ∃ u, exec .ret (start 0x00EE id) = .next u ∧ u.status = .faulted :=
  ⟨executes_of _ _ _ rfl (by decide) (by decide) (by decide), _, rfl, rfl⟩

theorem witness_running : State.reset.status = .running := rfl

theorem witness_unrecognized_fetched : Fetches State.reset 0x0000 ∧ ∀ r ∈ opcodeMap, (0x0000 : Word) &&& r.mask ≠ r.value :=
  ⟨⟨rfl, by decide, by decide⟩, by decide⟩

/-- The first `pc` at which no fetch succeeds, and the largest a running state can hold. -/
theorem witness_fetch_beyond_memory :
    (State.reset.jump 0x0FFF).status = .running ∧ 0xFFE < (State.reset.jump 0x0FFF).pc.toNat ∧
    (State.reset.jump 0xFFFF).status = .running ∧ 0xFFE < (State.reset.jump 0xFFFF).pc.toNat := by decide

/-- A step that faults: the empty memory at reset. -/
theorem witness_faulting_step : ∃ t, step State.reset = .next t ∧ t.status = .faulted := ⟨_, rfl, rfl⟩

theorem witness_faulted_state : (State.reset.raise .stackOverflow 0).status = .faulted ∧
    ∃ t, applyMove (.press 15) (State.reset.raise .stackOverflow 0) = .next t := ⟨rfl, _, rfl⟩

theorem witness_timers_tick : Executes (start 0xF015 (·.setReg 0 3)) 0xF015 (.stdt 0) ∧
    ∃ t, step (start 0xF015 (·.setReg 0 3)) = .next t ∧ t.status = .running :=
  ⟨executes_of _ _ _ rfl (by decide) (by decide) (by decide), _, rfl, rfl⟩

/-- 0, 15 and 16 occupied slots, the boundaries of the call and of the return. -/
theorem witness_stack_depths : (withDepth 0 State.reset).sp.val < 16 ∧ (withDepth 0 State.reset).sp.val = 0 ∧
    (withDepth 15 State.reset).sp.val < 16 ∧ (withDepth 1 State.reset).sp.val = 0 + 1 ∧
    (withDepth 16 State.reset).sp.val = 16 ∧ (withDepth 16 State.reset).sp.val = 15 + 1 := by decide

/-- A call to the last address at which a fetch succeeds, where a return stands. -/
theorem witness_call_then_return :
    let s := start 0x2FFE (withBytes 0xFFE [0x00, 0xEE])
    Executes s 0x2FFE (.call 0xFFE) ∧ s.sp.val < 16 ∧ (0xFFE : Addr12).toNat ≤ 0xFFE ∧
      s.mem.read (0xFFE : Addr12).toNat = 0x00 ∧ s.mem.read ((0xFFE : Addr12).toNat + 1) = 0xEE :=
  ⟨executes_of _ _ _ rfl (by decide) (by decide) (by decide), by decide, by decide, by decide, by decide⟩

/-- Any destination but the flag register, the last one below it included. -/
theorem witness_destination_not_flag : (0 : Reg) ≠ 15 ∧ (14 : Reg) ≠ 15 := by decide

theorem witness_flag_writers :
    State.reset.status = .running ∧
    (∃ t, exec (.add 15 1) State.reset = .next t ∧ t.status = .running) ∧
    (∃ t, exec (.ldi 14 1) State.reset = .next t ∧ t.status = .running) ∧
    (∃ t, exec (.jp 1) State.reset = .next t ∧ t.status = .running) := ⟨rfl, ⟨_, rfl, rfl⟩, ⟨_, rfl, rfl⟩, ⟨_, rfl, rfl⟩⟩

/-- Minor opcodes that make no register skip. -/
theorem witness_minor_opcodes : (1 : Nibble) ≠ 0 ∧ (15 : Nibble) ≠ 0 := by decide

/-- The last index at which three bytes exist, and the next one. -/
theorem witness_bcd_ranges : (State.reset.setIndex 0x0FFD).index.toNat + 2 < 4096 ∧
    4096 ≤ (State.reset.setIndex 0x0FFE).index.toNat + 2 := by decide

/-- The last index at which 16 bytes exist, and the next one; the same for one byte. -/
theorem witness_register_ranges : (State.reset.setIndex 0x0FF0).index.toNat + (15 : Reg).val < 4096 ∧
    4096 ≤ (State.reset.setIndex 0x0FF1).index.toNat + (15 : Reg).val ∧
    (State.reset.setIndex 0x0FFF).index.toNat + (0 : Reg).val < 4096 ∧
    4096 ≤ (State.reset.setIndex 0x1000).index.toNat + (0 : Reg).val := by decide

/-- A sprite of no rows anywhere, the last index for 15 rows, and the next one. -/
theorem witness_sprite_ranges : (0 : RowCount).val = 0 ∧
    (State.reset.setIndex 0x0FF1).index.toNat + ((15 : RowCount).val - 1) < 4096 ∧
    0 < (15 : RowCount).val ∧ 4096 ≤ (State.reset.setIndex 0x0FF2).index.toNat + (15 : RowCount).val - 1 := by decide

/-- T-STM4: the store right after itself. -/
theorem witness_store_next_fetch :
    let s := start 0xF155 (fun s => ((s.setReg 0 0x12).setReg 1 0x08).setIndex 0x0202)
    Executes s 0xF155 (.stm 1) ∧ 1 ≤ (1 : Reg).val ∧ s.index.toNat = s.pc.toNat + 2 ∧
      s.index.toNat + (1 : Reg).val < 4096 ∧
      (0x1208 : Word).toNat = (s.reg 0).toNat * 256 + (s.reg 1).toNat :=
  ⟨executes_of _ _ _ rfl (by decide) (by decide) (by decide), by decide, by decide, by decide, by decide⟩

theorem witness_next_state : ∃ t, step (start 0x1200 id) = .next t := ⟨_, rfl⟩

/-- A clear of a framebuffer that is not blank: it changes the framebuffer and sets `dirty`. -/
theorem witness_dirty_step :
    let s := start 0x00E0 (lit 5 0)
    Executes s 0x00E0 .cls ∧ ∃ t, step s = .next t ∧ t.status = .running ∧ t.fb ≠ s.fb ∧ t.dirty ≠ s.dirty := by
  refine ⟨executes_of _ _ _ rfl (by decide) (by decide) (by decide), _, rfl, rfl, ?_, by decide⟩
  intro h
  have := congrArg (fun f => pixel f 5 0) h
  revert this
  decide

theorem witness_dirty_before : State.reset.acknowledge.dirty = false ∧ (State.reset.setFrame clearFrame).dirty = true ∧
    ∃ t, step (start 0x1200 (·.setFrame clearFrame)) = .next t := ⟨rfl, rfl, _, rfl⟩

/-- The longest sprite, and one with a bit of 1. -/
theorem witness_draw_twice : (List.replicate 15 (0x80 : Byte)).length ≤ 15 ∧
    ∃ b ∈ List.replicate 15 (0x80 : Byte), b ≠ 0 := by decide

/-- A lit and an unlit cell under the sprite 0xC0 at the corner, in the framebuffer of `lit 0 0`. -/
theorem witness_draw_collides :
    (∃ i, spriteCovers 0 0 [0xC0] i ∧ cell (lit 0 0 State.reset).fb i = true) ∧
    ¬ ∃ i, spriteCovers 0 0 [] i ∧ cell (lit 0 0 State.reset).fb i = true :=
  ⟨⟨0, by decide, by decide⟩, by rintro ⟨i, ⟨row, -⟩, -⟩; exact row.elim0⟩

/-- The last register value that names a key, and the first that names none. -/
theorem witness_key_values : ((State.reset.setReg 2 15).reg 2).toNat < 16 ∧ 15 < ((State.reset.setReg 2 16).reg 2).toNat := by
  decide

/-- The first and the last key as the lowest pressed one, and no key pressed. -/
theorem witness_wait :
    ((pressed 0 State.reset).key 0 = true ∧ ∀ j : Key, j < 0 → (pressed 0 State.reset).key j = false) ∧
    ((pressed 15 State.reset).key 15 = true ∧ ∀ j : Key, j < 15 → (pressed 15 State.reset).key j = false) ∧
    ∀ k : Key, State.reset.key k = false := by decide

theorem witness_waiting_step : Executes (start 0xF20A id) 0xF20A (.waitk 2) ∧ ∀ k : Key, (start 0xF20A id).key k = false :=
  ⟨executes_of _ _ _ rfl (by decide) (by decide) (by decide), by decide⟩

/-- The longest image that loads and the shortest that does not. -/
theorem witness_images : (List.replicate 3584 (0 : Byte)).length ≤ 3584 ∧ 3584 < (List.replicate 3585 (0 : Byte)).length := by
  rw [List.length_replicate, List.length_replicate]; omega

/-- The addresses beside the glyphs and the image: the least and the greatest of each range that reads as 0. -/
theorem witness_reset_addresses (n : Nat) (h : n ≤ 3583) :
    (0 < 0x050) ∧ (0x04F < 0x050) ∧ (0x0A0 ≤ 0x0A0 ∧ 0x0A0 < 0x200) ∧ (0x0A0 ≤ 0x1FF ∧ 0x1FF < 0x200) ∧
      (0x200 + n ≤ 0xFFF ∧ 0xFFF ≤ 0xFFF) := by omega

/-- The last key index and the first beyond it. -/
theorem witness_key_indices : (∃ i, i < 16 ∧ i = 15) ∧ ∃ i, 15 < i ∧ i = 16 := by simp

/-- Two running states that differ in a register the addition of `V[1]` and `V[2]` does not read. -/
theorem witness_agree_on_reads :
    State.reset.status = .running ∧ (State.reset.setReg 3 9).status = .running ∧
    State.reset.cause = (State.reset.setReg 3 9).cause ∧ State.reset.faultInfo = (State.reset.setReg 3 9).faultInfo ∧
    AgreeOnReads (readsOf (.add 1 2) State.reset) State.reset (State.reset.setReg 3 9) ∧
    State.reset ≠ State.reset.setReg 3 9 := by
  refine ⟨rfl, rfl, rfl, rfl, ?_, fun h => ?_⟩
  · constructor <;> simp [readsOf]
  · have := congrArg (fun s => (s.reg 3).toNat) h
    revert this
    decide

/-- Two memories of the canonical form that read the same, written in two orders. -/
theorem witness_equal_reads :
    let m : Memory := Memory.write (Memory.write [] 0x300 1) 0x200 2
    let m' : Memory := Memory.write (Memory.write [] 0x200 2) 0x300 1
    m.wf = true ∧ m'.wf = true ∧ ∀ a, m.read a = m'.read a := by
  refine ⟨by decide, by decide, fun a => ?_⟩
  simp only [Memory.read_write]
  split <;> split <;> first | rfl | omega

theorem witness_image_loads : ∃ t, resetWith [0x12, 0x00] = .next t := ⟨_, rfl⟩

/-- The state after reset with a jump to itself meets the invariant, and steps. -/
theorem witness_invariant : Inv (start 0x1200 id) ∧ ∃ t, step (start 0x1200 id) = .next t := by
  refine ⟨⟨by decide, by decide, by decide, fun _ => rfl, fun k h hk => absurd hk (by simp [start, State.reset, State.withFetchWord, State.placeAtPc]), by decide⟩, _, rfl⟩

/-- A move of each kind from a running state, and a key pressed in the FAULTED state, each from a state that meets the
invariant (`witness_invariant`, `witness_faulted_invariant`). -/
theorem witness_moves :
    (∃ t, applyMove (.resetWithLoad [0x12, 0x00]) State.reset = .next t) ∧
    (∃ t, applyMove .stepTrigger (start 0x1200 id) = .next t) ∧
    (∃ t, applyMove (.press 15) (start 0x1200 id) = .next t) ∧
    (∃ t, applyMove (.release 0) (start 0x1200 id) = .next t) ∧
    (∃ t, applyMove .acknowledge (start 0x1200 id) = .next t) ∧
    (∃ t, applyMove .readFramebuffer (start 0x1200 id) = .next t) ∧
    (∃ t, applyMove (.press 15) (State.reset.raise .unrecognizedOpcode 0) = .next t) :=
  ⟨⟨_, rfl⟩, ⟨_, rfl⟩, ⟨_, rfl⟩, ⟨_, rfl⟩, ⟨_, rfl⟩, ⟨_, rfl⟩, ⟨_, rfl⟩⟩

theorem witness_faulted_invariant : Inv (State.reset.raise .unrecognizedOpcode 0) := by
  refine ⟨by decide, by decide, by decide, fun h => (by cases h), fun k h hk => absurd hk (by simp [State.reset]), by decide⟩

theorem witness_reachable : ∃ s, Reachable s := ⟨_, .reset [] _ rfl⟩

end Sys2Proof.Tests
end

/-! SUPPORT. The conditional meanings, one equation per branch: the guard decides between the instruction's own effect and
its fault (40_control_flow.md R130, R132; 42 R165, R166; 44 R184; 45 R190 to R192). -/

namespace Sys2Proof.Machine

open Sys2Proof

theorem execRet_of_pos (s : State) (h : 0 < s.sp.val) : execRet s = .next (s.pop.jump (s.top h + 2)) := dif_pos h

theorem execRet_of_empty (s : State) (h : ¬ 0 < s.sp.val) : execRet s = .next (s.raise .stackUnderflow s.pc) := dif_neg h

theorem execCall_of_lt (nnn : Addr12) (s : State) (h : s.sp.val < 16) :
    execCall nnn s = .next ((s.push s.pc h).jump (zextAddr nnn)) := dif_pos h

theorem execCall_of_full (nnn : Addr12) (s : State) (h : ¬ s.sp.val < 16) :
    execCall nnn s = .next (s.raise .stackOverflow s.pc) := dif_neg h

/-- What `DRW` draws: the framebuffer and the collision bit (R183, R184). -/
def State.drawing (s : State) (x y : Reg) (n : RowCount) : Drawing :=
  draw (s.reg x).toNat (s.reg y).toNat (s.mem.readList s.index.toNat n.val) s.fb

theorem execDrw_of_exists (x y : Reg) (n : RowCount) (s : State) (h : spriteExists s.index n = true) :
    execDrw x y n s =
      .next ((s.setFrame (s.drawing x y n).frame).setFlag (s.drawing x y n).collision).advance := if_pos h

theorem execDrw_of_not_exists (x y : Reg) (n : RowCount) (s : State) (h : ¬ spriteExists s.index n = true) :
    execDrw x y n s = .next (s.raise .memoryOutOfRange s.index) := if_neg h

theorem execLdm_of_exists (x : Reg) (s : State) (h : rangeExists s.index x.val = true) :
    execLdm x s = .next (s.setRegs (loadRegs s.mem s.index.toNat (x.val + 1) s.v)).advance := if_pos h

theorem execLdm_of_not_exists (x : Reg) (s : State) (h : ¬ rangeExists s.index x.val = true) :
    execLdm x s = .next (s.raise .memoryOutOfRange s.index) := if_neg h

/-- The two key skips in one: skip if the level of the key that `V[x]` names is the wanted one (R190, R191). -/
def keySkip (x : Reg) (wanted : Bool) (s : State) : Result :=
  match keyIndex (s.reg x) with
  | some k => .next (s.skipIf (s.key k == wanted))
  | none => raiseFault .keyIndexOutOfRange (zextByte (s.reg x)) s

theorem execSkp_eq_keySkip (x : Reg) (s : State) : execSkp x s = keySkip x true s := by
  cases h : keyIndex (s.reg x) <;> simp [execSkp, keySkip, h]

theorem execSknp_eq_keySkip (x : Reg) (s : State) : execSknp x s = keySkip x false s := by
  cases h : keyIndex (s.reg x) <;> simp [execSknp, keySkip, h]

theorem keySkip_of_some {x : Reg} {s : State} {k : Key} (h : keyIndex (s.reg x) = some k) (wanted : Bool) :
    keySkip x wanted s = .next (s.skipIf (s.key k == wanted)) := by rw [keySkip, h]

theorem keySkip_of_none {x : Reg} {s : State} (h : keyIndex (s.reg x) = none) (wanted : Bool) :
    keySkip x wanted s = .next (s.raise .keyIndexOutOfRange (zextByte (s.reg x))) := by rw [keySkip, h]; rfl

theorem execWaitk_of_some (x : Reg) (s : State) (k : Key) (h : s.lowestKey = some k) :
    execWaitk x s = .next (s.setReg x (BitVec.ofNat 8 k.val)).advance := by rw [execWaitk, h]

theorem execWaitk_of_none (x : Reg) (s : State) (h : s.lowestKey = none) : execWaitk x s = .next s := by
  rw [execWaitk, h]

end Sys2Proof.Machine

/-! ## The invariant (10_state.md R37): each operation on the state keeps it -/

namespace Sys2Proof.Machine

open Sys2Proof

section
variable {s : State} (h : Inv s)
include h

theorem Inv.setReg (x : Reg) (b : Byte) : Inv (s.setReg x b) := ⟨h.pc, h.faulted, h.cause, h.running, h.stack, h.mem⟩

theorem Inv.setRegs (v : Vector Byte 16) : Inv (s.setRegs v) := ⟨h.pc, h.faulted, h.cause, h.running, h.stack, h.mem⟩

theorem Inv.setIndex (a : Word) : Inv (s.setIndex a) := ⟨h.pc, h.faulted, h.cause, h.running, h.stack, h.mem⟩

theorem Inv.setDelay (b : Byte) : Inv (s.setDelay b) := ⟨h.pc, h.faulted, h.cause, h.running, h.stack, h.mem⟩

theorem Inv.setSound (b : Byte) : Inv (s.setSound b) := ⟨h.pc, h.faulted, h.cause, h.running, h.stack, h.mem⟩

theorem Inv.setRng (r : Word) : Inv (s.setRng r) := ⟨h.pc, h.faulted, h.cause, h.running, h.stack, h.mem⟩

theorem Inv.setFrame (f : Frame) : Inv (s.setFrame f) := ⟨h.pc, h.faulted, h.cause, h.running, h.stack, h.mem⟩

theorem Inv.setFlag (c : Bool) : Inv (s.setFlag c) := h.setReg _ _

theorem Inv.setKey (i : Key) (b : Bool) : Inv (s.setKey i b) := ⟨h.pc, h.faulted, h.cause, h.running, h.stack, h.mem⟩

theorem Inv.acknowledge : Inv s.acknowledge := ⟨h.pc, h.faulted, h.cause, h.running, h.stack, h.mem⟩

theorem Inv.tick : Inv s.tick := ⟨h.pc, h.faulted, h.cause, h.running, h.stack, h.mem⟩

theorem Inv.setMem {m : Memory} (hm : m.wf = true) : Inv (s.setMem m) :=
  ⟨h.pc, h.faulted, h.cause, h.running, h.stack, hm⟩

theorem Inv.jump {a : Word} (ha : a.toNat ≤ 0x1002) : Inv (s.jump a) :=
  ⟨ha, h.faulted, h.cause, h.running, h.stack, h.mem⟩

theorem Inv.jump_zextAddr (nnn : Addr12) : Inv (s.jump (zextAddr nnn)) :=
  h.jump (by rw [zextAddr_toNat]; omega)

/-- From a `pc` at which a fetch succeeds, the update next stays within the bound. -/
theorem Inv.advance (hp : s.pc.toNat ≤ 0xFFE) : Inv s.advance := h.jump (by rw [BitVec.toNat_add]; simp; omega)

theorem Inv.skip (hp : s.pc.toNat ≤ 0xFFE) : Inv s.skip := h.jump (by rw [BitVec.toNat_add]; simp; omega)

theorem Inv.skipIf (c : Bool) (hp : s.pc.toNat ≤ 0xFFE) : Inv (s.skipIf c) := by
  cases c with
  | false => exact h.advance hp
  | true => exact h.skip hp

theorem Inv.putResult (x : Reg) (b : Byte) (c : Bool) (hp : s.pc.toNat ≤ 0xFFE) : Inv (s.putResult x b c) :=
  ((h.setReg x b).setFlag c).advance hp

/-- The slot that a push fills is the only new occupied one. -/
theorem Inv.push {a : Word} (hsp : s.sp.val < 16) (ha : a.toNat ≤ 0xFFE) : Inv (s.push a hsp) := by
  refine ⟨h.pc, h.faulted, h.cause, h.running, fun k hk hlt => ?_, h.mem⟩
  simp only [State.push_stack, State.push_sp, Vector.getElem_set] at hlt ⊢
  split
  · exact ha
  · exact h.stack k hk (by omega)

theorem Inv.pop : Inv s.pop :=
  ⟨h.pc, h.faulted, h.cause, h.running, fun k hk hlt => h.stack k hk (by simp at hlt; omega), h.mem⟩

/-- A return lands two bytes after the address of a call, which is at most 0xFFE. -/
theorem Inv.top_add_two (hsp : 0 < s.sp.val) : (s.top hsp + 2).toNat ≤ 0x1002 := by
  have : (s.top hsp).toNat ≤ 0xFFE := h.stack (s.sp.val - 1) (by omega) (by omega)
  rw [BitVec.toNat_add]
  simp
  omega

/-- Every fault has a code of R210, so a raised fault is a well-formed faulted state. -/
theorem Inv.raise (k : FaultKind) (info : Word) : Inv (s.raise k info) := by
  refine ⟨h.pc, ?_, ?_, nofun, h.stack, h.mem⟩
  · cases k <;> simp [FaultKind.code]
  · cases k <;> simp [FaultKind.code]

/-- A store at `I` writes existing addresses only, or faults (42_index_and_memory.md R166). -/
theorem Inv.storeAtIndex {bs : List Byte} (hbs : 0 < bs.length) (hp : s.pc.toNat ≤ 0xFFE) :
    ∃ t, storeAtIndex bs s = .next t ∧ Inv t := by
  by_cases hr : s.index.toNat + (bs.length - 1) < 4096
  · exact ⟨_, storeAtIndex_inRange bs s hr, (h.setMem (Memory.wf_writeList _ _ _ h.mem (by omega))).advance hp⟩
  · exact ⟨_, storeAtIndex_outOfRange bs s (by omega), h.raise _ _⟩

theorem Inv.keySkip (x : Reg) (wanted : Bool) (hp : s.pc.toNat ≤ 0xFFE) :
    ∃ t, keySkip x wanted s = .next t ∧ Inv t := by
  cases hk : keyIndex (s.reg x) with
  | some k => exact ⟨_, keySkip_of_some hk wanted, h.skipIf _ hp⟩
  | none => exact ⟨_, keySkip_of_none hk wanted, h.raise _ _⟩

/-- Every instruction that was fetched answers a state that meets the invariant. -/
theorem Inv.exec (hp : s.pc.toNat ≤ 0xFFE) (i : Instr) : ∃ t, exec i s = .next t ∧ Inv t := by
  cases i with
  | cls => exact ⟨_, rfl, (h.setFrame _).advance hp⟩
  | ret =>
    by_cases hsp : 0 < s.sp.val
    · exact ⟨_, execRet_of_pos s hsp, h.pop.jump (h.top_add_two hsp)⟩
    · exact ⟨_, execRet_of_empty s hsp, h.raise _ _⟩
  | jp nnn | jpb nnn => exact ⟨_, rfl, h.jump_zextAddr nnn⟩
  | call nnn =>
    by_cases hsp : s.sp.val < 16
    · exact ⟨_, execCall_of_lt nnn s hsp, (h.push hsp hp).jump_zextAddr nnn⟩
    · exact ⟨_, execCall_of_full nnn s hsp, h.raise _ _⟩
  | sei x kk | snei x kk | ser x y | sner x y => exact ⟨_, rfl, h.skipIf _ hp⟩
  | ldi x kk | addi x kk | mov x y | or x y | and x y | xor x y | lddt x => exact ⟨_, rfl, (h.setReg x _).advance hp⟩
  | add x y | sub x y | shr x y | subn x y | shl x y => exact ⟨_, rfl, h.putResult x _ _ hp⟩
  | ldidx nnn | addidx x | glyph x => exact ⟨_, rfl, (h.setIndex _).advance hp⟩
  | rnd x kk => exact ⟨_, rfl, ((h.setRng _).setReg x _).advance hp⟩
  | drw x y n =>
    by_cases hr : spriteExists s.index n = true
    · exact ⟨_, execDrw_of_exists x y n s hr, ((h.setFrame _).setFlag _).advance hp⟩
    · exact ⟨_, execDrw_of_not_exists x y n s hr, h.raise _ _⟩
  | skp x => rw [Machine.exec, execSkp_eq_keySkip]; exact h.keySkip x true hp
  | sknp x => rw [Machine.exec, execSknp_eq_keySkip]; exact h.keySkip x false hp
  | waitk x =>
    cases hk : s.lowestKey with
    | some k => exact ⟨_, execWaitk_of_some x s k hk, (h.setReg x _).advance hp⟩
    | none => exact ⟨_, execWaitk_of_none x s hk, h⟩
  | stdt x => exact ⟨_, rfl, (h.setDelay _).advance hp⟩
  | stst x => exact ⟨_, rfl, (h.setSound _).advance hp⟩
  | bcd x => exact h.storeAtIndex (by simp) hp
  | stm x => exact h.storeAtIndex (by simp) hp
  | ldm x =>
    by_cases hr : rangeExists s.index x.val = true
    · exact ⟨_, execLdm_of_exists x s hr, (h.setRegs _).advance hp⟩
    · exact ⟨_, execLdm_of_not_exists x s hr, h.raise _ _⟩

end

/-- The initial state meets the invariant: nothing is on the stack and memory lists nothing. -/
theorem inv_reset : Inv State.reset :=
  ⟨by decide, by decide, by decide, fun _ => rfl, fun _ _ hk => absurd hk (Nat.not_lt_zero _), State.reset_mem_wf⟩

/-- An image that loads ends at or below the last address, so loading it keeps the canonical form (R252). -/
theorem inv_of_resetWith {image : List Byte} {t : State} (h : resetWith image = .next t) : Inv t := by
  simp only [resetWith] at h
  split at h
  · next hlen =>
    cases h
    exact inv_reset.setMem (Memory.wf_writeList _ _ _ State.reset_mem_wf (by simp at hlen ⊢; omega))
  · cases h

theorem Inv.of_driveKey {s t : State} {i : Nat} {b : Bool} (hs : Inv s) (h : driveKey i b s = .next t) : Inv t := by
  simp only [driveKey] at h
  split at h
  · cases h; exact hs.setKey _ _
  · cases h

end Sys2Proof.Machine

section

open Sys2Proof Sys2Proof.Machine

/-- Settles O53: a step raises a fault, or runs a fetched instruction and ticks; `Inv.exec` covers the instruction. -/
theorem stepKeepsTheInvariant : Obligations.StepKeepsTheInvariant := by
  intro s t hs h
  obtain ⟨hr, ⟨-, rfl⟩ | ⟨op, e, -, -, rfl⟩ | ⟨op, i, u, hf, -, hu, ht⟩⟩ := step_next_cases s t h
  · exact hs.raise _ _
  · exact hs.raise _ _
  · obtain ⟨u', hu', hi⟩ := hs.exec ((fetch_eq_some_iff s op hr).1 hf).pc i
    cases hu.symm.trans hu'
    obtain ⟨-, rfl⟩ | ⟨-, rfl⟩ := ht
    · exact hi.tick
    · exact hi

/-- Settles O55: a step by O53, a reset from its image, and the other moves write no piece that the invariant bounds. -/
theorem everyMoveKeepsTheInvariant : Obligations.EveryMoveKeepsTheInvariant := by
  intro m s t hs h
  cases m with
  | resetWithLoad image => exact inv_of_resetWith h
  | stepTrigger => exact stepKeepsTheInvariant s t hs h
  | press i | release i => exact hs.of_driveKey h
  | acknowledge => cases h; exact hs.acknowledge
  | readFramebuffer | readDirty | readFaultRegisters => cases h; exact hs

/-- Settles O52: at reset, and after the load of an image. -/
theorem resetMeetsTheInvariant : Obligations.ResetMeetsTheInvariant :=
  ⟨inv_reset, fun _ _ => inv_of_resetWith⟩

/-- Settles O54, by induction on how the state was brought about. -/
theorem reachableStatesMeetTheInvariant : Obligations.ReachableStatesMeetTheInvariant := by
  intro s h
  induction h with
  | reset image t ht => exact inv_of_resetWith ht
  | move m s t _ ht ih => exact everyMoveKeepsTheInvariant m s t ih ht

end

/-! ## What each instruction writes (10_state.md R39): the frame of each operation, then of each instruction -/

namespace Sys2Proof.Machine

open Sys2Proof

variable (s : State)

theorem onlyChanges_refl (w : Writes) : OnlyChanges w s s := by constructor <;> simp

theorem onlyChanges_jump (a : Word) : OnlyChanges {} s (s.jump a) := by constructor <;> simp

theorem onlyChanges_skipIf (c : Bool) : OnlyChanges {} s (s.skipIf c) := by constructor <;> simp

theorem onlyChanges_setIndex (a : Word) : OnlyChanges { index := true } s (s.setIndex a).advance := by
  constructor <;> simp

theorem onlyChanges_setDelay (b : Byte) : OnlyChanges { dt := true } s (s.setDelay b).advance := by
  constructor <;> simp

theorem onlyChanges_setSound (b : Byte) : OnlyChanges { st := true } s (s.setSound b).advance := by
  constructor <;> simp

theorem onlyChanges_setFrame (f : Frame) : OnlyChanges { fb := true, dirty := true } s (s.setFrame f).advance := by
  constructor <;> simp

theorem onlyChanges_pop_jump (a : Word) : OnlyChanges { sp := true } s (s.pop.jump a) := by constructor <;> simp

theorem onlyChanges_push_jump (a b : Word) (h : s.sp.val < 16) :
    OnlyChanges { stackSlot := some s.sp.val, sp := true } s ((s.push a h).jump b) := by
  constructor <;> simp
  intro k hk hne
  exact Vector.getElem_set_ne h hk hne

theorem onlyChanges_setRng_setReg (r : Word) (x : Reg) (b : Byte) :
    OnlyChanges { regs := [x], rng := true } s ((s.setRng r).setReg x b).advance := by
  constructor <;> simp
  intro r hr hx
  exact absurd hx.symm hr

theorem onlyChanges_setFrame_setFlag (f : Frame) (c : Bool) :
    OnlyChanges { regs := [flagReg], fb := true, dirty := true } s ((s.setFrame f).setFlag c).advance := by
  constructor <;> simp
  intro r hr hx
  exact absurd hx.symm hr

@[simp] theorem mem_regsTo (x r : Reg) : r ∈ regsTo x ↔ r ≤ x := by simp [regsTo]

/-- One register after a load of a range: the byte at its own offset from `I`, or unchanged (R165). -/
theorem reg_setRegs_loadRegs (x r : Reg) :
    (s.setRegs (loadRegs s.mem s.index.toNat (x.val + 1) s.v)).reg r =
      if r ≤ x then s.mem.read (s.index.toNat + r.val) else s.reg r := by
  simp only [State.reg, State.setRegs_v, getElem_loadRegs, Fin.le_def, Nat.lt_succ_iff]

theorem onlyChanges_setRegs_loadRegs (x : Reg) :
    OnlyChanges { regs := regsTo x } s
      (s.setRegs (loadRegs s.mem s.index.toNat (x.val + 1) s.v)).advance := by
  constructor <;> simp [reg_setRegs_loadRegs]
  intro r hlt hle
  exact absurd hle (not_le.2 hlt)

/-- The lowest pressed key exists exactly when some key is pressed (45_keypad.md R192). -/
theorem State.lowestKey_eq_none_iff : s.lowestKey = none ↔ ¬ ∃ i : Key, s.key i = true := by
  simp [State.lowestKey]

/-- `r` is a next state that differs from `s` in what `w` names, or in a raised fault alone. -/
def WritesOrFaults (w : Writes) (s : State) (r : Result) : Prop :=
  ∃ t, r = .next t ∧ (OnlyChanges w s t ∨ ∃ k info, t = s.raise k info)

variable {s}

theorem OnlyChanges.writesOrFaults {w : Writes} {t : State} {r : Result} (h : OnlyChanges w s t)
    (hr : r = .next t := by rfl) : WritesOrFaults w s r := ⟨t, hr, .inl h⟩

theorem writesOrFaults_of_raise {w : Writes} {k : FaultKind} {info : Word} {r : Result}
    (hr : r = .next (s.raise k info)) : WritesOrFaults w s r := ⟨_, hr, .inr ⟨k, info, rfl⟩⟩

variable (s)

theorem writesOrFaults_storeAtIndex (bs : List Byte) :
    WritesOrFaults { memFirst := s.index.toNat, memCount := bs.length } s (storeAtIndex bs s) := by
  by_cases h : s.index.toNat + (bs.length - 1) < 4096
  · exact (onlyChanges_storeAtIndex bs s).writesOrFaults (storeAtIndex_inRange bs s h)
  · exact writesOrFaults_of_raise (storeAtIndex_outOfRange bs s (by omega))

theorem writesOrFaults_keySkip (x : Reg) (wanted : Bool) : WritesOrFaults {} s (keySkip x wanted s) := by
  cases h : keyIndex (s.reg x) with
  | some k => exact (onlyChanges_skipIf s _).writesOrFaults (keySkip_of_some h wanted)
  | none => exact writesOrFaults_of_raise (keySkip_of_none h wanted)

/-- The write to `V[x]` is in the frame only if a key is pressed (R39, R192). -/
theorem writesOrFaults_waitk (x : Reg) : WritesOrFaults (writesOf (.waitk x) s) s (exec (.waitk x) s) := by
  by_cases hp : ∃ i : Key, s.key i = true
  · obtain ⟨k, hk⟩ := Option.ne_none_iff_exists'.1 (mt s.lowestKey_eq_none_iff.1 (not_not.2 hp))
    rw [writesOf, if_pos hp]
    exact (onlyChanges_setReg s x _).writesOrFaults (execWaitk_of_some x s k hk)
  · exact (onlyChanges_refl s _).writesOrFaults (execWaitk_of_none x s (s.lowestKey_eq_none_iff.2 hp))

/-- Every instruction writes what its row of R39 names, or raises a fault. -/
theorem exec_writesOrFaults (i : Instr) : WritesOrFaults (writesOf i s) s (exec i s) := by
  cases i with
  | cls => exact (onlyChanges_setFrame s _).writesOrFaults
  | ret =>
    by_cases h : 0 < s.sp.val
    · exact (onlyChanges_pop_jump s _).writesOrFaults (execRet_of_pos s h)
    · exact writesOrFaults_of_raise (execRet_of_empty s h)
  | jp nnn | jpb nnn => exact (onlyChanges_jump s _).writesOrFaults
  | call nnn =>
    by_cases h : s.sp.val < 16
    · exact (onlyChanges_push_jump s _ _ h).writesOrFaults (execCall_of_lt nnn s h)
    · exact writesOrFaults_of_raise (execCall_of_full nnn s h)
  | sei x kk | snei x kk | ser x y | sner x y => exact (onlyChanges_skipIf s _).writesOrFaults
  | ldi x kk | addi x kk | mov x y | or x y | and x y | xor x y | lddt x =>
    exact (onlyChanges_setReg s x _).writesOrFaults
  | add x y | sub x y | shr x y | subn x y | shl x y => exact (onlyChanges_putResult s x _ _).writesOrFaults
  | ldidx nnn | addidx x | glyph x => exact (onlyChanges_setIndex s _).writesOrFaults
  | rnd x kk => exact (onlyChanges_setRng_setReg s _ x _).writesOrFaults
  | drw x y n =>
    by_cases h : spriteExists s.index n = true
    · exact (onlyChanges_setFrame_setFlag s _ _).writesOrFaults (execDrw_of_exists x y n s h)
    · exact writesOrFaults_of_raise (execDrw_of_not_exists x y n s h)
  | skp x => rw [exec, execSkp_eq_keySkip]; exact writesOrFaults_keySkip s x true
  | sknp x => rw [exec, execSknp_eq_keySkip]; exact writesOrFaults_keySkip s x false
  | waitk x => exact writesOrFaults_waitk s x
  | stdt x => exact (onlyChanges_setDelay s _).writesOrFaults
  | stst x => exact (onlyChanges_setSound s _).writesOrFaults
  | bcd x => exact writesOrFaults_storeAtIndex s (decimalDigits (s.reg x))
  | stm x =>
    have h := writesOrFaults_storeAtIndex s (s.regsUpTo x)
    rwa [State.length_regsUpTo] at h
  | ldm x =>
    by_cases h : rangeExists s.index x.val = true
    · exact (onlyChanges_setRegs_loadRegs s x).writesOrFaults (execLdm_of_exists x s h)
    · exact writesOrFaults_of_raise (execLdm_of_not_exists x s h)

variable {s}

/-- The next state of an instruction, by its frame. -/
theorem exec_next_cases {t : State} {i : Instr} (h : exec i s = .next t) :
    OnlyChanges (writesOf i s) s t ∨ ∃ k info, t = s.raise k info := by
  obtain ⟨t', ht', hw⟩ := exec_writesOrFaults s i
  cases h.symm.trans ht'
  exact hw

/-- An instruction that ends running has written no more than its row of R39. -/
theorem OnlyChanges.of_exec_running {t : State} {i : Instr} (h : exec i s = .next t) (ht : t.status = .running) :
    OnlyChanges (writesOf i s) s t := by
  obtain hw | ⟨k, info, rfl⟩ := exec_next_cases h
  · exact hw
  · cases ht

/-! ## The stack (R24, R25) -/

theorem OnlyChanges.stack_eq {w : Writes} {t : State} (h : OnlyChanges w s t) (hw : w.stackSlot = none) :
    t.stack = s.stack :=
  Vector.ext fun k hk => h.stack k hk (by simp [hw])

/-- No row of R39 but those of `CALL` and `RET` names the stack or its depth. -/
theorem writesOf_stack (i : Instr) (s : State) (hcall : ∀ nnn, i ≠ .call nnn) (hret : i ≠ .ret) :
    (writesOf i s).sp = false ∧ (writesOf i s).stackSlot = none := by
  cases i with
  | call nnn => exact absurd rfl (hcall nnn)
  | ret => exact absurd rfl hret
  | waitk x => rw [writesOf]; split <;> exact ⟨rfl, rfl⟩
  | _ => exact ⟨rfl, rfl⟩

/-- What an instruction can do to the stack: nothing, a push, or a pop that leaves the slots alone. -/
theorem exec_stack_cases {t : State} {i : Instr} (h : exec i s = .next t) :
    (t.sp = s.sp ∧ t.stack = s.stack) ∨ (∃ nnn, i = .call nnn ∧ t.sp.val = s.sp.val + 1) ∨
      (i = .ret ∧ s.sp.val = t.sp.val + 1 ∧ t.stack = s.stack) := by
  by_cases hret : i = .ret
  · subst hret
    by_cases hsp : 0 < s.sp.val
    · cases h.symm.trans (execRet_of_pos s hsp)
      exact .inr (.inr ⟨rfl, by simp; omega, rfl⟩)
    · cases h.symm.trans (execRet_of_empty s hsp)
      exact .inl ⟨rfl, rfl⟩
  by_cases hcall : ∃ nnn, i = .call nnn
  · obtain ⟨nnn, rfl⟩ := hcall
    by_cases hsp : s.sp.val < 16
    · cases h.symm.trans (execCall_of_lt nnn s hsp)
      exact .inr (.inl ⟨nnn, rfl, rfl⟩)
    · cases h.symm.trans (execCall_of_full nnn s hsp)
      exact .inl ⟨rfl, rfl⟩
  obtain ⟨hsp, hslot⟩ := writesOf_stack i s (not_exists.1 hcall) hret
  obtain hw | ⟨k, info, rfl⟩ := exec_next_cases h
  · exact .inl ⟨hw.sp hsp, hw.stack_eq hslot⟩
  · exact .inl ⟨rfl, rfl⟩

/-! ## The flag register (R21) -/

theorem flagByte_le_one (c : Bool) : (flagByte c).toNat ≤ 1 := by cases c <;> decide

theorem reg_flag_le_one_of_drw {t : State} {x y : Reg} {n : RowCount} (h : exec (.drw x y n) s = .next t)
    (ht : t.status = .running) : (t.reg 15).toNat ≤ 1 := by
  by_cases hr : spriteExists s.index n = true
  · cases h.symm.trans (execDrw_of_exists x y n s hr)
    simpa using flagByte_le_one _
  · cases h.symm.trans (execDrw_of_not_exists x y n s hr)
    cases ht

/-- `WAITK` has no register but its destination in its row of R39. -/
theorem notMem_writesOf_waitk {x r : Reg} (s : State) (h : x ≠ r) : r ∉ (writesOf (.waitk x) s).regs := by
  rw [writesOf]
  split <;> simp [h.symm]

end Sys2Proof.Machine

section

open Sys2Proof Sys2Proof.Machine

/-- Settles O49: the frame of each instruction, with `R222` for a raised fault. -/
theorem instructionsWriteOnlyWhatTheTableNames : Obligations.InstructionsWriteOnlyWhatTheTableNames := by
  intro i s hs
  obtain ⟨t, ht, hw | ⟨k, info, rfl⟩⟩ := exec_writesOrFaults s i
  · exact ⟨t, ht, .inl ⟨hw.status.trans hs, hw⟩⟩
  · exact ⟨_, ht, .inr (faultRaised_raise k info s)⟩

/-- Settles O48: a fault and the tick leave the stack alone, and `exec_stack_cases` says what the instruction does to it. -/
theorem onlyCallAndReturnMoveTheStack : Obligations.OnlyCallAndReturnMoveTheStack := by
  intro s t h
  obtain ⟨hr, ⟨-, rfl⟩ | ⟨op, e, -, -, rfl⟩ | ⟨op, i, u, hf, hd, hu, ht⟩⟩ := step_next_cases s t h
  · exact .inl ⟨rfl, rfl⟩
  · exact .inl ⟨rfl, rfl⟩
  · have htu : t.sp = u.sp ∧ t.stack = u.stack := by obtain ⟨-, rfl⟩ | ⟨-, rfl⟩ := ht <;> exact ⟨rfl, rfl⟩
    have hx : Executes s op i := ⟨(fetch_eq_some_iff s op hr).1 hf, hd⟩
    rw [htu.1, htu.2]
    obtain hsame | ⟨nnn, rfl, hsp⟩ | ⟨rfl, hsp⟩ := exec_stack_cases hu
    · exact .inl hsame
    · exact .inr (.inl ⟨op, nnn, hx, hsp⟩)
    · exact .inr (.inr ⟨op, hx, hsp⟩)

/-- Settles O28: the six flag writers end with a flag byte in `V[15]`; for the others `V[15]` is outside the frame. -/
theorem flagRegisterWriters : Obligations.FlagRegisterWriters := by
  intro i s t _ h ht
  have hw := OnlyChanges.of_exec_running h ht
  cases i with
  | add x y | sub x y | subn x y | shr x y | shl x y =>
    cases h
    exact (reg_flag_putResult s x _ _).symm ▸ flagByte_le_one _
  | drw x y n => exact reg_flag_le_one_of_drw h ht
  | ldi x _ | addi x _ | mov x _ | or x _ | and x _ | xor x _ | rnd x _ | lddt x =>
    exact fun hx => hw.regs 15 (List.mem_singleton.not.2 hx.symm)
  | waitk x => exact fun hx => hw.regs 15 (notMem_writesOf_waitk s hx)
  | ldm x => exact fun hx => hw.regs 15 ((mem_regsTo x 15).not.2 fun hle => hx (Fin.last_le_iff.1 hle))
  | _ => exact hw.regs 15 List.not_mem_nil

end

/-! ## The canonical form of memory (R34): its reads determine it -/

namespace Sys2Proof.Machine

open Sys2Proof

/-- Below all its entries a memory reads as its reset contents. -/
theorem Memory.read_of_forall_lt {m : Memory} {a : Nat} (h : ∀ c ∈ m, a < c.1) : m.read a = initialByte a := by
  induction m with
  | nil => rfl
  | cons c m ih =>
    obtain ⟨hc, hm⟩ := List.forall_mem_cons.1 h
    rw [Memory.read_cons, if_neg (Nat.ne_of_gt hc), ih hm]

/-- The head of a canonical memory is not the reset contents, so a memory that reads the same at its address has an entry at
or below it. -/
theorem Memory.not_forall_lt_of_read_eq {a : Nat} {b : Byte} {m m' : Memory} (h : Memory.wf ((a, b) :: m) = true)
    (hr : Memory.read ((a, b) :: m) a = Memory.read m' a) : ¬ ∀ c ∈ m', a < c.1 := by
  intro hlt
  obtain ⟨-, hb, -, -⟩ := (Memory.wf_cons a b m).1 h
  rw [Memory.read_of_forall_lt hlt, Memory.read_cons, if_pos rfl] at hr
  exact hb hr

/-- The tail of a canonical memory reads as the whole but at the address of the head. -/
theorem Memory.read_tail {a : Nat} {b : Byte} {m : Memory} (h : Memory.wf ((a, b) :: m) = true) (a' : Nat) :
    Memory.read m a' = if a = a' then initialByte a' else Memory.read ((a, b) :: m) a' := by
  obtain ⟨-, -, hlt, -⟩ := (Memory.wf_cons a b m).1 h
  split
  · next heq => exact Memory.read_of_forall_lt (heq ▸ hlt)
  · next hne => rw [Memory.read_cons, if_neg hne]

theorem Memory.forall_cons_lt {a a' : Nat} {b' : Byte} {m' : Memory} (h : Memory.wf ((a', b') :: m') = true)
    (hlt : a < a') : ∀ c ∈ (a', b') :: m', a < c.1 := by
  obtain ⟨-, -, hm', -⟩ := (Memory.wf_cons a' b' m').1 h
  exact List.forall_mem_cons.2 ⟨hlt, fun c hc => hlt.trans (hm' c hc)⟩

/-- Two canonical memories that read the same are the same list, entry by entry from the lowest address. -/
theorem Memory.eq_of_read_eq {m m' : Memory} (h : m.wf = true) (h' : m'.wf = true)
    (hr : ∀ a, m.read a = m'.read a) : m = m' := by
  induction m generalizing m' with
  | nil =>
    cases m' with
    | nil => rfl
    | cons c' m' => exact absurd (List.forall_mem_nil _) (Memory.not_forall_lt_of_read_eq h' (hr _).symm)
  | cons c m ih =>
    obtain ⟨a, b⟩ := c
    cases m' with
    | nil => exact absurd (List.forall_mem_nil _) (Memory.not_forall_lt_of_read_eq h (hr _))
    | cons c' m' =>
      obtain ⟨a', b'⟩ := c'
      obtain hlt | rfl | hlt := Nat.lt_trichotomy a a'
      · exact absurd (Memory.forall_cons_lt h' hlt) (Memory.not_forall_lt_of_read_eq h (hr a))
      · have hb : b = b' := by simpa [Memory.read_cons] using hr a
        obtain ⟨-, -, -, hm⟩ := (Memory.wf_cons a b m).1 h
        obtain ⟨-, -, -, hm'⟩ := (Memory.wf_cons a b' m').1 h'
        have hr' : ∀ k, Memory.read m k = Memory.read m' k := fun k => by rw [Memory.read_tail h, Memory.read_tail h', hr]
        rw [hb, ih hm hm' hr']
      · exact absurd (Memory.forall_cons_lt h hlt) (Memory.not_forall_lt_of_read_eq h' (hr a').symm)

end Sys2Proof.Machine

/-! ## What each instruction reads (R39): two runs that agree there end alike -/

namespace Sys2Proof.Machine

open Sys2Proof

/-- `pc` and the fault registers: what the ends of two runs are compared in, whatever the instruction writes. -/
def State.control (s : State) : Word × Status × BitVec 3 × Word := (s.pc, s.faultRegisters)

theorem control_eq_iff (s₁ s₂ : State) : s₁.control = s₂.control ↔
    s₁.pc = s₂.pc ∧ s₁.status = s₂.status ∧ s₁.cause = s₂.cause ∧ s₁.faultInfo = s₂.faultInfo := by
  simp [State.control, State.faultRegisters]

/-- Two results are next states with the same `pc` and fault registers that agree, if running, on what `w` names. -/
def EndAlike (w : Writes) (r₁ r₂ : Result) : Prop :=
  ∃ t₁ t₂, r₁ = .next t₁ ∧ r₂ = .next t₂ ∧ t₁.control = t₂.control ∧
    (t₁.status = .running → AgreeOnWrites w t₁ t₂)

theorem endAlike_of_agree {w : Writes} {t₁ t₂ : State} (hc : t₁.control = t₂.control) (hw : AgreeOnWrites w t₁ t₂) :
    EndAlike w (.next t₁) (.next t₂) := ⟨t₁, t₂, rfl, rfl, hc, fun _ => hw⟩

/-! ### Operands: what is read from two states that agree on the reads -/

theorem AgreeOnReads.fst {r : Reads} {s₁ s₂ : State} {x : Reg} {l : List Reg} (h : AgreeOnReads r s₁ s₂)
    (hr : r.regs = x :: l) : s₁.reg x = s₂.reg x := h.regs x (by simp [hr])

theorem AgreeOnReads.snd {r : Reads} {s₁ s₂ : State} {x y : Reg} {l : List Reg} (h : AgreeOnReads r s₁ s₂)
    (hr : r.regs = x :: y :: l) : s₁.reg y = s₂.reg y := h.regs y (by simp [hr])

theorem Memory.readList_congr {m m' : Memory} {a n : Nat}
    (h : ∀ a', a ≤ a' → a' < a + n → m.read a' = m'.read a') : m.readList a n = m'.readList a n := by
  rw [readList_eq_map, readList_eq_map]
  exact List.map_congr_left fun i hi => h _ (by omega) (by have := List.mem_range.1 hi; omega)

section
variable {s₁ s₂ : State}

theorem top_eq_of_agree (h : AgreeOnReads (readsOf .ret s₁) s₁ s₂) (h₁ : 0 < s₁.sp.val) (h₂ : 0 < s₂.sp.val) :
    s₁.top h₁ = s₂.top h₂ := by
  have hs := h.stackTop rfl (s₁.sp.val - 1) (by omega) (by omega)
  simpa [State.top, h.sp rfl] using hs

theorem regsUpTo_eq_of_agree {x : Reg} (h : AgreeOnReads (readsOf (.stm x) s₁) s₁ s₂) :
    s₁.regsUpTo x = s₂.regsUpTo x := by
  apply List.ext_getElem (by simp)
  intro i hi _
  have hx : i < x.val + 1 := by simpa using hi
  let r : Reg := ⟨i, by omega⟩
  have hr : r ≤ x := Nat.le_of_lt_succ hx
  exact (s₁.getElem_regsUpTo x r hr).trans ((h.regs r ((mem_regsTo x r).2 hr)).trans (s₂.getElem_regsUpTo x r hr).symm)

theorem drawing_eq_of_agree {x y : Reg} {n : RowCount} (h : AgreeOnReads (readsOf (.drw x y n) s₁) s₁ s₂) :
    s₁.drawing x y n = s₂.drawing x y n := by
  have hm : s₁.mem.readList s₁.index.toNat n.val = s₂.mem.readList s₁.index.toNat n.val := Memory.readList_congr h.mem
  rw [State.drawing, State.drawing, hm, h.fst rfl, h.snd rfl, h.index rfl, h.fb rfl]

theorem lowestKey_eq_of_agree {x : Reg} (h : AgreeOnReads (readsOf (.waitk x) s₁) s₁ s₂) :
    s₁.lowestKey = s₂.lowestKey := by
  have hk : s₁.key = s₂.key := funext fun k => h.keys k (List.mem_finRange k)
  rw [State.lowestKey, State.lowestKey, hk]

/-! ### Operations: from the same operands, two states end alike -/

theorem agreeOnWrites_nothing (t₁ t₂ : State) : AgreeOnWrites {} t₁ t₂ := by constructor <;> simp

variable (hc : s₁.control = s₂.control)
include hc

theorem pc_eq_of_control : s₁.pc = s₂.pc := congrArg Prod.fst hc

theorem control_jump {a₁ a₂ : Word} (ha : a₁ = a₂) : (s₁.jump a₁).control = (s₂.jump a₂).control :=
  Prod.ext ha (Prod.ext_iff.1 hc).2

theorem control_advance : s₁.advance.control = s₂.advance.control :=
  control_jump hc (congrArg (· + 2) (pc_eq_of_control hc))

theorem control_skipIf (c : Bool) : (s₁.skipIf c).control = (s₂.skipIf c).control := by
  cases c with
  | false => exact control_advance hc
  | true => exact control_jump hc (congrArg (· + 4) (pc_eq_of_control hc))

theorem endAlike_raise {w : Writes} {k : FaultKind} {info₁ info₂ : Word} (h : info₁ = info₂) :
    EndAlike w (.next (s₁.raise k info₁)) (.next (s₂.raise k info₂)) :=
  ⟨_, _, rfl, rfl, (control_eq_iff _ _).2 ⟨show s₁.pc = s₂.pc from pc_eq_of_control hc, rfl, rfl, h⟩, nofun⟩

theorem endAlike_jump {a₁ a₂ : Word} (ha : a₁ = a₂) : EndAlike {} (.next (s₁.jump a₁)) (.next (s₂.jump a₂)) :=
  endAlike_of_agree (control_jump hc ha) (agreeOnWrites_nothing _ _)

theorem endAlike_skipIf {c₁ c₂ : Bool} (h : c₁ = c₂) : EndAlike {} (.next (s₁.skipIf c₁)) (.next (s₂.skipIf c₂)) :=
  endAlike_of_agree (h ▸ control_skipIf hc c₁) (agreeOnWrites_nothing _ _)

theorem endAlike_setReg (x : Reg) {b₁ b₂ : Byte} (hb : b₁ = b₂) :
    EndAlike { regs := [x] } (.next (s₁.setReg x b₁).advance) (.next (s₂.setReg x b₂).advance) :=
  endAlike_of_agree (control_advance hc) (by constructor <;> simp [hb])

theorem endAlike_putResult (x : Reg) {b₁ b₂ : Byte} {c₁ c₂ : Bool} (hb : b₁ = b₂) (hf : c₁ = c₂) :
    EndAlike { regs := [x, flagReg] } (.next (s₁.putResult x b₁ c₁)) (.next (s₂.putResult x b₂ c₂)) :=
  endAlike_of_agree (control_advance hc) (by constructor <;> simp [State.reg_putResult, hb, hf])

theorem endAlike_setIndex {a₁ a₂ : Word} (ha : a₁ = a₂) :
    EndAlike { index := true } (.next (s₁.setIndex a₁).advance) (.next (s₂.setIndex a₂).advance) :=
  endAlike_of_agree (control_advance hc) (by constructor <;> simp [ha])

theorem endAlike_setDelay {b₁ b₂ : Byte} (hb : b₁ = b₂) :
    EndAlike { dt := true } (.next (s₁.setDelay b₁).advance) (.next (s₂.setDelay b₂).advance) :=
  endAlike_of_agree (control_advance hc) (by constructor <;> simp [hb])

theorem endAlike_setSound {b₁ b₂ : Byte} (hb : b₁ = b₂) :
    EndAlike { st := true } (.next (s₁.setSound b₁).advance) (.next (s₂.setSound b₂).advance) :=
  endAlike_of_agree (control_advance hc) (by constructor <;> simp [hb])

theorem endAlike_setFrame (f : Frame) :
    EndAlike { fb := true, dirty := true } (.next (s₁.setFrame f).advance) (.next (s₂.setFrame f).advance) :=
  endAlike_of_agree (control_advance hc) (by constructor <;> simp)

theorem endAlike_storeAtIndex {bs₁ bs₂ : List Byte} (hi : s₁.index = s₂.index) (hb : bs₁ = bs₂) :
    EndAlike { memFirst := s₁.index.toNat, memCount := bs₁.length } (storeAtIndex bs₁ s₁) (storeAtIndex bs₂ s₂) := by
  subst hb
  by_cases hr : s₁.index.toNat + (bs₁.length - 1) < 4096
  · rw [storeAtIndex_inRange _ _ hr, storeAtIndex_inRange _ _ (hi ▸ hr)]
    refine endAlike_of_agree (control_advance hc) ?_
    constructor <;> simp
    intro a h1 h2
    rw [← hi, Memory.read_writeList, Memory.read_writeList, dif_pos (by omega), dif_pos (by omega)]
  · rw [storeAtIndex_outOfRange _ _ (by omega), storeAtIndex_outOfRange _ _ (by rw [← hi]; omega)]
    exact endAlike_raise hc hi

/-! ### The instructions whose guard reads the state too -/

theorem endAlike_ret (h : AgreeOnReads (readsOf .ret s₁) s₁ s₂) :
    EndAlike (writesOf .ret s₁) (exec .ret s₁) (exec .ret s₂) := by
  have hsp : s₁.sp = s₂.sp := h.sp rfl
  by_cases h₁ : 0 < s₁.sp.val
  · have h₂ : 0 < s₂.sp.val := hsp ▸ h₁
    rw [exec, exec, execRet_of_pos s₁ h₁, execRet_of_pos s₂ h₂, top_eq_of_agree h h₁ h₂]
    refine endAlike_of_agree (control_jump hc rfl) ?_
    constructor <;> simp [writesOf, hsp]
  · rw [exec, exec, execRet_of_empty s₁ h₁, execRet_of_empty s₂ (hsp ▸ h₁)]
    exact endAlike_raise hc (pc_eq_of_control hc)

theorem endAlike_call (nnn : Addr12) (h : AgreeOnReads (readsOf (.call nnn) s₁) s₁ s₂) :
    EndAlike (writesOf (.call nnn) s₁) (exec (.call nnn) s₁) (exec (.call nnn) s₂) := by
  have hsp : s₁.sp = s₂.sp := h.sp rfl
  by_cases h₁ : s₁.sp.val < 16
  · rw [exec, exec, execCall_of_lt nnn s₁ h₁, execCall_of_lt nnn s₂ (hsp ▸ h₁)]
    refine endAlike_of_agree (control_jump hc rfl) ?_
    constructor <;> simp [writesOf, hsp, pc_eq_of_control hc]
    intro k hk heq
    subst heq
    rw [Vector.getElem_set_self, Vector.getElem_set_self]
  · rw [exec, exec, execCall_of_full nnn s₁ h₁, execCall_of_full nnn s₂ (hsp ▸ h₁)]
    exact endAlike_raise hc (pc_eq_of_control hc)

theorem endAlike_rnd (x : Reg) (kk : Byte) (h : AgreeOnReads (readsOf (.rnd x kk) s₁) s₁ s₂) :
    EndAlike (writesOf (.rnd x kk) s₁) (exec (.rnd x kk) s₁) (exec (.rnd x kk) s₂) := by
  have hr : s₁.rng = s₂.rng := h.rng rfl
  refine endAlike_of_agree (control_advance hc) ?_
  constructor <;> simp [writesOf, hr]

theorem endAlike_drw (x y : Reg) (n : RowCount) (h : AgreeOnReads (readsOf (.drw x y n) s₁) s₁ s₂) :
    EndAlike (writesOf (.drw x y n) s₁) (exec (.drw x y n) s₁) (exec (.drw x y n) s₂) := by
  have hi : s₁.index = s₂.index := h.index rfl
  by_cases hr : spriteExists s₁.index n = true
  · rw [exec, exec, execDrw_of_exists x y n s₁ hr, execDrw_of_exists x y n s₂ (hi ▸ hr), drawing_eq_of_agree h]
    refine endAlike_of_agree (control_advance hc) ?_
    constructor <;> simp [writesOf]
  · rw [exec, exec, execDrw_of_not_exists x y n s₁ hr, execDrw_of_not_exists x y n s₂ (hi ▸ hr)]
    exact endAlike_raise hc hi

theorem endAlike_keySkip (x : Reg) (wanted : Bool) (h : AgreeOnReads { regs := [x], keys := keyRead x s₁ } s₁ s₂) :
    EndAlike {} (keySkip x wanted s₁) (keySkip x wanted s₂) := by
  have hx : s₁.reg x = s₂.reg x := h.fst rfl
  cases hk : keyIndex (s₁.reg x) with
  | some k =>
    rw [keySkip_of_some hk, keySkip_of_some (hx ▸ hk)]
    exact endAlike_skipIf hc (congrArg (· == wanted) (h.keys k (by simp [keyRead, hk])))
  | none =>
    rw [keySkip_of_none hk, keySkip_of_none (hx ▸ hk)]
    exact endAlike_raise hc (congrArg zextByte hx)

theorem endAlike_waitk (x : Reg) (h : AgreeOnReads (readsOf (.waitk x) s₁) s₁ s₂) :
    EndAlike (writesOf (.waitk x) s₁) (exec (.waitk x) s₁) (exec (.waitk x) s₂) := by
  have hl := lowestKey_eq_of_agree h
  cases hk : s₁.lowestKey with
  | some k =>
    have hp : ∃ i : Key, s₁.key i = true := not_not.1 (mt s₁.lowestKey_eq_none_iff.2 (by simp [hk]))
    rw [exec, exec, execWaitk_of_some x s₁ k hk, execWaitk_of_some x s₂ k (hl ▸ hk), writesOf, if_pos hp]
    exact endAlike_setReg hc x rfl
  | none =>
    rw [exec, exec, execWaitk_of_none x s₁ hk, execWaitk_of_none x s₂ (hl ▸ hk), writesOf,
      if_neg (s₁.lowestKey_eq_none_iff.1 hk)]
    exact endAlike_of_agree hc (agreeOnWrites_nothing s₁ s₂)

theorem endAlike_ldm (x : Reg) (h : AgreeOnReads (readsOf (.ldm x) s₁) s₁ s₂) :
    EndAlike (writesOf (.ldm x) s₁) (exec (.ldm x) s₁) (exec (.ldm x) s₂) := by
  have hi : s₁.index = s₂.index := h.index rfl
  by_cases hr : rangeExists s₁.index x.val = true
  · rw [exec, exec, execLdm_of_exists x s₁ hr, execLdm_of_exists x s₂ (hi ▸ hr)]
    refine endAlike_of_agree (control_advance hc) ?_
    constructor <;> simp [writesOf, reg_setRegs_loadRegs]
    intro r hle
    rw [if_pos hle, if_pos hle, ← hi]
    exact h.mem _ (Nat.le_add_right _ _) (by simp [readsOf]; omega)
  · rw [exec, exec, execLdm_of_not_exists x s₁ hr, execLdm_of_not_exists x s₂ (hi ▸ hr)]
    exact endAlike_raise hc hi

/-- What an instruction does depends only on its reads of R39. -/
theorem exec_endAlike (i : Instr) (h : AgreeOnReads (readsOf i s₁) s₁ s₂) :
    EndAlike (writesOf i s₁) (exec i s₁) (exec i s₂) := by
  cases i with
  | cls => exact endAlike_setFrame hc clearFrame
  | ret => exact endAlike_ret hc h
  | jp nnn | jpb nnn => exact endAlike_jump hc rfl
  | call nnn => exact endAlike_call hc nnn h
  | sei x kk => exact endAlike_skipIf hc (congrArg (· == kk) (h.fst rfl))
  | snei x kk => exact endAlike_skipIf hc (congrArg (· != kk) (h.fst rfl))
  | ser x y => exact endAlike_skipIf hc (congrArg₂ (· == ·) (h.fst rfl) (h.snd rfl))
  | sner x y => exact endAlike_skipIf hc (congrArg₂ (· != ·) (h.fst rfl) (h.snd rfl))
  | ldi x kk => exact endAlike_setReg hc x rfl
  | addi x kk => exact endAlike_setReg hc x (congrArg (· + kk) (h.fst rfl))
  | mov x y => exact endAlike_setReg hc x (h.fst rfl)
  | or x y => exact endAlike_setReg hc x (congrArg₂ (· ||| ·) (h.fst rfl) (h.snd rfl))
  | and x y => exact endAlike_setReg hc x (congrArg₂ (· &&& ·) (h.fst rfl) (h.snd rfl))
  | xor x y => exact endAlike_setReg hc x (congrArg₂ (· ^^^ ·) (h.fst rfl) (h.snd rfl))
  | add x y =>
    exact endAlike_putResult hc x (congrArg₂ (· + ·) (h.fst rfl) (h.snd rfl)) (congrArg₂ carryOut (h.fst rfl) (h.snd rfl))
  | sub x y =>
    exact endAlike_putResult hc x (congrArg₂ (· - ·) (h.fst rfl) (h.snd rfl)) (congrArg₂ noBorrow (h.fst rfl) (h.snd rfl))
  | subn x y =>
    exact endAlike_putResult hc x (congrArg₂ (· - ·) (h.snd rfl) (h.fst rfl)) (congrArg₂ noBorrow (h.snd rfl) (h.fst rfl))
  | shr x y => exact endAlike_putResult hc x (congrArg (fun b : Byte => b >>> 1) (h.fst rfl)) (congrArg bitOutRight (h.fst rfl))
  | shl x y => exact endAlike_putResult hc x (congrArg (fun b : Byte => b <<< 1) (h.fst rfl)) (congrArg bitOutLeft (h.fst rfl))
  | ldidx nnn => exact endAlike_setIndex hc rfl
  | rnd x kk => exact endAlike_rnd hc x kk h
  | drw x y n => exact endAlike_drw hc x y n h
  | skp x => rw [exec, exec, execSkp_eq_keySkip, execSkp_eq_keySkip]; exact endAlike_keySkip hc x true h
  | sknp x => rw [exec, exec, execSknp_eq_keySkip, execSknp_eq_keySkip]; exact endAlike_keySkip hc x false h
  | lddt x => exact endAlike_setReg hc x (h.dt rfl)
  | waitk x => exact endAlike_waitk hc x h
  | stdt x => exact endAlike_setDelay hc (h.fst rfl)
  | stst x => exact endAlike_setSound hc (h.fst rfl)
  | addidx x => exact endAlike_setIndex hc (congrArg₂ (· + zextByte ·) (h.index rfl) (h.fst rfl))
  | glyph x => exact endAlike_setIndex hc (congrArg glyphAddress (h.fst rfl))
  | bcd x => exact endAlike_storeAtIndex hc (h.index rfl) (congrArg decimalDigits (h.fst rfl))
  | stm x =>
    have hs := endAlike_storeAtIndex hc (h.index rfl) (regsUpTo_eq_of_agree h)
    rwa [State.length_regsUpTo] at hs
  | ldm x => exact endAlike_ldm hc x h

end

end Sys2Proof.Machine

section

open Sys2Proof Sys2Proof.Machine

/-- Settles O51: `Memory.eq_of_read_eq`, by induction on the two lists of entries. -/
theorem equalReadsMakeEqualMemories : Obligations.EqualReadsMakeEqualMemories :=
  fun _ _ => Memory.eq_of_read_eq

/-- Settles O50: `exec_endAlike` for the instruction, from the same `pc` and fault registers. -/
theorem instructionsReadOnlyWhatTheTableNames : Obligations.InstructionsReadOnlyWhatTheTableNames := by
  intro i s₁ s₂ hs₁ hs₂ hcause hinfo h
  have hc : s₁.control = s₂.control := (control_eq_iff s₁ s₂).2 ⟨h.pc, hs₁.trans hs₂.symm, hcause, hinfo⟩
  obtain ⟨t₁, t₂, ht₁, ht₂, hct, hw⟩ := exec_endAlike hc i h
  obtain ⟨hpc, hst, hca, hfi⟩ := (control_eq_iff t₁ t₂).1 hct
  exact ⟨t₁, t₂, ht₁, ht₂, hpc, hst, hca, hfi, hw⟩

end

/-! ## A step forward (40_control_flow.md R121), and what the store of `STM` leaves to fetch (20_memory.md R77) -/

namespace Sys2Proof.Machine

open Sys2Proof

variable {s : State}

/-- A machine that fetches `op` and decodes it to `i` does what `i` does, then ends the step. -/
theorem Executes.step_eq {op : Word} {i : Instr} (h : Executes s op i) : step s = finishStep (exec i s) := by
  have hf : s.fetch = some op := (fetch_eq_some_iff s op h.fetches.running).2 h.fetches
  simp only [step, trigger, h.fetches.running, cycle, hf, h.decodes]

/-- An instruction that ends running is followed by the tick (R200). -/
theorem Executes.step_eq_tick {op : Word} {i : Instr} {u : State} (h : Executes s op i) (hu : exec i s = .next u)
    (hr : u.status = .running) : step s = .next u.tick := by
  simp only [h.step_eq, hu, finishStep, hr]

/-- The store of `V[0]` to `V[x]` leaves `V[r]` at `r` above its first address (42_index_and_memory.md R164). -/
theorem Memory.read_writeList_regsUpTo (m : Memory) (a : Nat) (s : State) {x r : Reg} (h : r ≤ x) :
    (m.writeList a (s.regsUpTo x)).read (a + r.val) = s.reg r := by
  have hr : a ≤ a + r.val ∧ a + r.val - a < (s.regsUpTo x).length := by simp; omega
  rw [Memory.read_writeList, dif_pos hr]
  simpa using s.getElem_regsUpTo x r h

/-- `STM` with its whole range in memory (R164, R166). -/
theorem exec_stm_inRange (x : Reg) (s : State) (h : s.index.toNat + x.val < 4096) :
    exec (.stm x) s = .next (s.setMem (s.mem.writeList s.index.toNat (s.regsUpTo x))).advance :=
  storeAtIndex_inRange _ s (by simpa using h)

end Sys2Proof.Machine

section

open Sys2Proof Sys2Proof.Machine

/-- Settles O36: the store ends running with `pc` at its own first address, where `V[0]` and `V[1]` now stand. -/
theorem storeIsSeenByTheNextFetch : Obligations.StoreIsSeenByTheNextFetch := by
  intro s op op' x hx hx1 hi hrange hop
  have hr : s.status = .running := hx.fetches.running
  have hpc : (s.pc + 2).toNat = s.index.toNat := by bv_omega
  have hV0 := s.mem.read_writeList_regsUpTo s.index.toNat s (Fin.zero_le x)
  have hV1 := s.mem.read_writeList_regsUpTo s.index.toNat s (show 1 ≤ x from hx1)
  refine ⟨_, hx.step_eq_tick (exec_stm_inRange x s hrange) hr, hr, ?_, ?_⟩
  · rw [State.tick_pc, State.advance_pc, State.setMem_pc, hpc]
    omega
  · rw [State.tick_pc, State.advance_pc, State.setMem_pc, hpc, hop, ← hV0, ← hV1]
    rfl

end

/-! ## The fields of an opcode (30_encoding.md R91): as numbers, under a mask, and put together again -/

namespace Sys2Proof

theorem majorField_toNat (op : Word) : (majorField op).toNat = op.toNat / 4096 := by
  rw [majorField, BitVec.extractLsb'_toNat, Nat.shiftRight_eq_div_pow]
  omega

theorem nField_toNat (op : Word) : (nField op).toNat = op.toNat % 16 := BitVec.extractLsb'_toNat ..

theorem kkField_toNat (op : Word) : (kkField op).toNat = op.toNat % 256 := BitVec.extractLsb'_toNat ..

/-- An opcode has each field that the mask keeps whole in common with the match value. -/
theorem extractLsb'_eq_of_and_eq {op mask value : Word} {start len : Nat} (h : op &&& mask = value)
    (hmask : mask.extractLsb' start len = BitVec.allOnes len) :
    op.extractLsb' start len = value.extractLsb' start len := by
  rw [← h, BitVec.extractLsb'_and, hmask, BitVec.and_allOnes]

theorem formatNnn_fields {op : Word} {m : Nibble} (hm : (majorField op).toNat = m.toNat) :
    formatNnn m (nnnField op) = op := by
  obtain rfl := BitVec.eq_of_toNat_eq hm
  exact BitVec.extractLsb'_append_extractLsb' (w := 4) (len := 12)

theorem formatXkk_fields {op : Word} {m : Nibble} {kk : Byte} (hm : (majorField op).toNat = m.toNat)
    (hkk : (kkField op).toNat = kk.toNat) : formatXkk m (regOfNibble (xField op)) kk = op := by
  obtain rfl := BitVec.eq_of_toNat_eq hkk
  have hlow : xField op ++ kkField op = nnnField op := BitVec.extractLsb'_append_extractLsb'_eq_extractLsb' rfl
  rw [formatXkk, nibbleOfReg_regOfNibble, hlow]
  exact formatNnn_fields hm

theorem formatXyn_fields {op : Word} {m n : Nibble} (hm : (majorField op).toNat = m.toNat)
    (hn : (nField op).toNat = n.toNat) :
    formatXyn m (regOfNibble (xField op)) (regOfNibble (yField op)) n = op := by
  obtain rfl := BitVec.eq_of_toNat_eq hn
  have hlow : yField op ++ nField op = kkField op := BitVec.extractLsb'_append_extractLsb'_eq_extractLsb' rfl
  rw [formatXyn, nibbleOfReg_regOfNibble (yField op), hlow]
  exact formatXkk_fields hm rfl

/-! ## An opcode that decodes is the opcode of its instruction (R94, R95) -/

theorem encode_of_decodeZero {op : Word} {i : Instr} (h : decodeZero op = .ok i) : encode i = op := by
  rw [decodeZero] at h
  split at h
  · next hop => cases h; exact hop.symm
  · split at h
    · next hop => cases h; exact hop.symm
    · cases h

theorem encode_of_decodeEight {op : Word} {i : Instr} (hm : (majorField op).toNat = 0x8)
    (h : decodeEight op (regOfNibble (xField op)) (regOfNibble (yField op)) = .ok i) : encode i = op := by
  rw [decodeEight] at h
  split at h <;> cases h
  all_goals next hn => exact formatXyn_fields hm hn

theorem encode_of_decodeKey {op : Word} {i : Instr} (hm : (majorField op).toNat = 0xE)
    (h : decodeKey op (regOfNibble (xField op)) = .ok i) : encode i = op := by
  rw [decodeKey] at h
  split at h <;> cases h
  all_goals next hkk => exact formatXkk_fields hm hkk

theorem encode_of_decodeMisc {op : Word} {i : Instr} (hm : (majorField op).toNat = 0xF)
    (h : decodeMisc op (regOfNibble (xField op)) = .ok i) : encode i = op := by
  rw [decodeMisc] at h
  split at h <;> cases h
  all_goals next hkk => exact formatXkk_fields hm hkk

/-- The branches of `decode` in its order, one per first nibble: each format is put together from the fields it was read
from. -/
theorem encode_of_decode {op : Word} {i : Instr} (h : decode op = .ok i) : encode i = op := by
  simp only [decode] at h
  split at h
  case h_1 hm => exact encode_of_decodeZero h
  case h_2 hm | h_3 hm | h_11 hm | h_12 hm => cases h; exact formatNnn_fields hm
  case h_4 hm | h_5 hm | h_7 hm | h_8 hm | h_13 hm => cases h; exact formatXkk_fields hm rfl
  case h_6 hm | h_10 hm =>
    split at h
    · next hn => cases h; exact formatXyn_fields hm (congrArg BitVec.toNat hn)
    · cases h
  case h_9 hm => exact encode_of_decodeEight hm h
  case h_14 hm => cases h; exact formatXyn_fields hm rfl
  case h_15 hm => exact encode_of_decodeKey hm h
  case h_16 hm => exact encode_of_decodeMisc hm h
  case h_17 => cases h

/-- `Laws.RowMatch`, collected over the instructions. -/
theorem rowMatch (i : Instr) : Laws.RowMatch.Statement i := by
  open Laws.RowMatch in
  cases i
  exacts [cls, ret, jp _, call _, sei _ _, snei _ _, ser _ _, ldi _ _, addi _ _, mov _ _, or _ _, and _ _, xor _ _,
    add _ _, sub _ _, shr _ _, subn _ _, shl _ _, sner _ _, ldidx _, jpb _, rnd _ _, drw _ _ _, skp _, sknp _, lddt _,
    waitk _, stdt _, stst _, addidx _, glyph _, bcd _, stm _, ldm _]

theorem exists_row_of_decode {op : Word} {i : Instr} (h : decode op = .ok i) :
    ∃ r ∈ opcodeMap, r.mnemonic = i.mnemonic ∧ op &&& r.mask = r.value := by
  obtain ⟨-, hrow⟩ := rowMatch i
  rwa [encode_of_decode h] at hrow

/-! ## The opcodes that do not decode (R96, R97) -/

/-- R96's table: whether the number `w`, with first nibble `m`, is an unrecognised encoding. -/
abbrev Unlisted (m w : Nat) : Prop :=
  (m = 0x0 ∧ w ≠ 0x00E0 ∧ w ≠ 0x00EE) ∨
  (m = 0x5 ∧ w % 16 ≠ 0) ∨
  (m = 0x8 ∧ w % 16 ∈ [0x8, 0x9, 0xA, 0xB, 0xC, 0xD, 0xF]) ∨
  (m = 0x9 ∧ w % 16 ≠ 0) ∨
  (m = 0xE ∧ w % 256 ∉ [0x9E, 0xA1]) ∨
  (m = 0xF ∧ w % 256 ∉ [0x07, 0x0A, 0x15, 0x18, 0x1E, 0x29, 0x33, 0x55, 0x65])

theorem decodeZero_eq_error_iff (op : Word) :
    decodeZero op = .error (.unrecognized op) ↔ op.toNat ≠ 0x00E0 ∧ op.toNat ≠ 0x00EE := by
  simp only [decodeZero, ← BitVec.toNat_inj]
  split
  · simp_all
  · split <;> simp_all

theorem decodeEight_eq_error_iff (op : Word) (x y : Reg) :
    decodeEight op x y = .error (.unrecognized op) ↔ op.toNat % 16 ∈ [0x8, 0x9, 0xA, 0xB, 0xC, 0xD, 0xF] := by
  have hlt : op.toNat % 16 < 16 := Nat.mod_lt _ (by decide)
  rw [decodeEight, nField_toNat]
  generalize op.toNat % 16 = n at hlt
  interval_cases n <;> simp

theorem decodeKey_eq_error_iff (op : Word) (x : Reg) :
    decodeKey op x = .error (.unrecognized op) ↔ op.toNat % 256 ∉ [0x9E, 0xA1] := by
  rw [decodeKey, kkField_toNat]
  split <;> simp_all

theorem decodeMisc_eq_error_iff (op : Word) (x : Reg) :
    decodeMisc op x = .error (.unrecognized op) ↔
      op.toNat % 256 ∉ [0x07, 0x0A, 0x15, 0x18, 0x1E, 0x29, 0x33, 0x55, 0x65] := by
  rw [decodeMisc, kkField_toNat]
  split <;> simp_all

/-- By the first nibble, as `decode` dispatches on it. -/
theorem decode_eq_error_iff (op : Word) :
    decode op = .error (.unrecognized op) ↔ Unlisted (op.toNat / 4096) op.toNat := by
  have hlt : op.toNat / 4096 < 16 := by omega
  rw [decode, majorField_toNat]
  generalize op.toNat / 4096 = m at hlt
  interval_cases m <;>
    simp [Unlisted, decodeZero_eq_error_iff, decodeEight_eq_error_iff, decodeKey_eq_error_iff,
      decodeMisc_eq_error_iff, ← BitVec.toNat_inj, nField_toNat]

/-! ## The rows of the opcode map (R95): those that share a first nibble share a mask (R103) -/

/-- The mask of the rows with first nibble `m`. -/
def rowMask (m : Nat) : Word :=
  match m with
  | 0x0 => 0xFFFF
  | 0x5 | 0x8 | 0x9 => 0xF00F
  | 0xE | 0xF => 0xF0FF
  | _ => 0xF000

theorem mask_eq_rowMask : ∀ r ∈ opcodeMap, r.mask = rowMask (r.value.toNat / 4096) := by decide

theorem majorField_mask : ∀ r ∈ opcodeMap, majorField r.mask = 0xF := by decide

theorem nodup_values : (opcodeMap.map (·.value)).Nodup := by decide

theorem not_unlisted_value : ∀ r ∈ opcodeMap, ¬ Unlisted (r.value.toNat / 4096) r.value.toNat := by decide

section
variable {op : Word} {r : OpcodeRow} (hr : r ∈ opcodeMap) (h : op &&& r.mask = r.value)
include h

theorem mod_16_eq_of_row (hmask : r.mask = 0xF00F) : op.toNat % 16 = r.value.toNat % 16 := by
  rw [← nField_toNat, ← nField_toNat]
  exact congrArg BitVec.toNat (extractLsb'_eq_of_and_eq h (hmask ▸ rfl))

theorem mod_256_eq_of_row (hmask : r.mask = 0xF0FF) : op.toNat % 256 = r.value.toNat % 256 := by
  rw [← kkField_toNat, ← kkField_toNat]
  exact congrArg BitVec.toNat (extractLsb'_eq_of_and_eq h (hmask ▸ rfl))

include hr

theorem div_eq_of_row : op.toNat / 4096 = r.value.toNat / 4096 := by
  rw [← majorField_toNat, ← majorField_toNat]
  exact congrArg BitVec.toNat (extractLsb'_eq_of_and_eq h (majorField_mask r hr))

theorem mask_of_row : r.mask = rowMask (op.toNat / 4096) := div_eq_of_row hr h ▸ mask_eq_rowMask r hr

/-- The mask keeps whole each field that the table's line for the first nibble speaks of, so the match value would be in that
line too. -/
theorem not_unlisted_of_row : ¬ Unlisted (op.toNat / 4096) op.toNat := by
  intro ht
  have hmask := mask_of_row hr h
  have hv := not_unlisted_value r hr
  rw [← div_eq_of_row hr h] at hv
  obtain ⟨hm, hlow⟩ | ⟨hm, hlow⟩ | ⟨hm, hlow⟩ | ⟨hm, hlow⟩ | ⟨hm, hlow⟩ | ⟨hm, hlow⟩ := ht <;>
    rw [hm] at hmask hv
  · have hop : op = r.value := by rw [← h, hmask]; exact BitVec.and_allOnes.symm
    exact hv (.inl ⟨rfl, hop ▸ hlow⟩)
  · exact hv (.inr (.inl ⟨rfl, mod_16_eq_of_row h hmask ▸ hlow⟩))
  · exact hv (.inr (.inr (.inl ⟨rfl, mod_16_eq_of_row h hmask ▸ hlow⟩)))
  · exact hv (.inr (.inr (.inr (.inl ⟨rfl, mod_16_eq_of_row h hmask ▸ hlow⟩))))
  · exact hv (.inr (.inr (.inr (.inr (.inl ⟨rfl, mod_256_eq_of_row h hmask ▸ hlow⟩)))))
  · exact hv (.inr (.inr (.inr (.inr (.inr ⟨rfl, mod_256_eq_of_row h hmask ▸ hlow⟩)))))

end

/-- R103's own argument: the first nibble of `op` fixes the mask of a row that it matches, and so the match value. -/
theorem row_unique {op : Word} {r₁ r₂ : OpcodeRow} (hr₁ : r₁ ∈ opcodeMap) (hr₂ : r₂ ∈ opcodeMap)
    (h₁ : op &&& r₁.mask = r₁.value) (h₂ : op &&& r₂.mask = r₂.value) : r₁ = r₂ := by
  have hmask : r₁.mask = r₂.mask := (mask_of_row hr₁ h₁).trans (mask_of_row hr₂ h₂).symm
  have hvalue : r₁.value = r₂.value := by rw [← h₁, ← h₂, hmask]
  exact List.inj_on_of_nodup_map nodup_values hr₁ hr₂ hvalue

/-! ## How many opcodes do not decode (R96): the count by first nibble -/

theorem count_congr {p q : Nat → Prop} [DecidablePred p] [DecidablePred q] {n : Nat} (h : ∀ k < n, p k ↔ q k) :
    Nat.count p n = Nat.count q n :=
  List.countP_congr fun k hk => by simpa using h k (List.mem_range.1 hk)

/-- A count over `b` blocks of `a` numbers is the sum of the counts over each block. -/
theorem count_mul (p : Nat → Prop) [DecidablePred p] (a b : Nat) :
    Nat.count p (a * b) = ∑ m ∈ Finset.range b, Nat.count (fun k => p (a * m + k)) a := by
  induction b with
  | zero => simp
  | succ b ih => rw [Nat.mul_succ, Nat.count_add, ih, Finset.sum_range_succ]

theorem count_notMem {s : Finset Nat} {n : Nat} (hs : s ⊆ Finset.range n) : Nat.count (· ∉ s) n = n - s.card := by
  rw [Nat.count_eq_card_filter_range, Finset.filter_notMem_eq_sdiff, Finset.card_sdiff_of_subset hs, Finset.card_range]

/-- Each of `b` blocks of `r` numbers leaves out one number per residue in `s`. -/
theorem count_mod_notMem {s : Finset Nat} {r : Nat} (hs : s ⊆ Finset.range r) (b : Nat) :
    Nat.count (fun k => k % r ∉ s) (r * b) = b * (r - s.card) := by
  have hblock : Nat.count (fun k => k % r ∉ s) r = r - s.card := by
    rw [← count_notMem hs]
    exact count_congr fun k hk => by rw [Nat.mod_eq_of_lt hk]
  simp [count_mul, hblock]

/-- The table's line for the first nibble `m` speaks of the low twelve bits alone. -/
theorem unlisted_block_iff (m k : Nat) (hk : k < 4096) :
    Unlisted ((4096 * m + k) / 4096) (4096 * m + k) ↔ Unlisted m k := by
  have hm : (4096 * m + k) / 4096 = m := by omega
  have hn : (4096 * m + k) % 16 = k % 16 := by omega
  have hkk : (4096 * m + k) % 256 = k % 256 := by omega
  have hzero : m = 0 → 4096 * m + k = k := by omega
  rw [Unlisted, Unlisted, hm, hn, hkk]
  exact or_congr_left (and_congr_right fun h => by rw [hzero h])

/-- The counts of R96's table. -/
def unlistedCount (m : Nat) : Nat :=
  match m with
  | 0x0 => 4094
  | 0x5 | 0x9 => 3840
  | 0x8 => 1792
  | 0xE => 4064
  | 0xF => 3952
  | _ => 0

/-- Each line of R96's table leaves out some residues of the low bits that it speaks of. -/
theorem count_unlisted_of_mod {m r b : Nat} {s : Finset Nat} (hs : s ⊆ Finset.range r)
    (h : ∀ k < r * b, Unlisted m k ↔ k % r ∉ s) : Nat.count (Unlisted m) (r * b) = b * (r - s.card) :=
  (count_congr h).trans (count_mod_notMem hs b)

theorem count_unlisted_eq_zero {m : Nat} (hm : m ∉ [0x0, 0x5, 0x8, 0x9, 0xE, 0xF]) :
    Nat.count (Unlisted m) 4096 = 0 :=
  Nat.count_of_forall_not fun k _ hk => hm (by simp only [Unlisted, List.mem_cons] at hk ⊢; tauto)

/-- The branches of `unlistedCount` in its order. -/
theorem count_unlisted (m : Nat) : Nat.count (Unlisted m) 4096 = unlistedCount m := by
  unfold unlistedCount
  split
  case h_1 =>
    exact count_unlisted_of_mod (r := 4096) (b := 1) (s := {0x0E0, 0x0EE}) (by simp [Finset.subset_iff])
      (fun k hk => by simp [Unlisted, Nat.mod_eq_of_lt hk])
  case h_2 | h_3 =>
    exact count_unlisted_of_mod (r := 16) (b := 256) (s := {0}) (by decide) (by simp [Unlisted])
  case h_4 =>
    exact count_unlisted_of_mod (r := 16) (b := 256) (s := {0, 1, 2, 3, 4, 5, 6, 7, 0xE}) (by decide)
      (fun k _ => by simp [Unlisted]; omega)
  case h_5 =>
    exact count_unlisted_of_mod (r := 256) (b := 16) (s := {0x9E, 0xA1}) (by simp [Finset.subset_iff])
      (by simp [Unlisted])
  case h_6 =>
    exact count_unlisted_of_mod (r := 256) (b := 16) (s := {0x07, 0x0A, 0x15, 0x18, 0x1E, 0x29, 0x33, 0x55, 0x65})
      (by simp [Finset.subset_iff]) (by simp [Unlisted])
  case h_7 => exact count_unlisted_eq_zero (by simp only [List.mem_cons, List.not_mem_nil]; tauto)

theorem isNone_decodeTableWord_iff {w : Nat} (hw : w < 65536) :
    (decodeTableWord 16 w).isNone ↔ Unlisted (w / 4096) w := by
  have hop : (tableWord 16 w).toNat = w := by
    rw [tableWord, BitVec.toNat_ofNat, Nat.mod_mod]
    exact Nat.mod_eq_of_lt hw
  have h := decode_eq_error_iff (tableWord 16 w)
  rw [hop] at h
  rw [← h, decodeTableWord, tableBytes, decodeBytes, wordOfBytes_high_low]
  cases hd : decode (tableWord 16 w) with
  | ok i => simp
  | error e => simp [Machine.decode_error_eq _ e hd]

end Sys2Proof

section

open Sys2Proof

/-- Settles O6: `decode_eq_error_iff`, by the dispatch on the first nibble. -/
theorem unrecognizedOpcodesAreTheListed : Obligations.UnrecognizedOpcodesAreTheListed := decode_eq_error_iff

/-- Settles O4: no row twice because no match value is, and `row_unique`. -/
theorem opcodeMapRowsAreDisjoint : Obligations.OpcodeMapRowsAreDisjoint :=
  ⟨rfl, nodup_values.of_map, fun _ _ hr₁ _ hr₂ => row_unique hr₁ hr₂⟩

/-- Settles O5: an opcode that decodes matches the row of its instruction and so no other, and one in a row is not in R96's
table. -/
theorem decodeSelectsTheMatchingRow : Obligations.DecodeSelectsTheMatchingRow := by
  intro op
  refine ⟨fun _ => exists_row_of_decode, fun r hr h => ?_, fun hnone => ?_⟩
  · cases hd : decode op with
    | ok i =>
      obtain ⟨r', hr', hname, h'⟩ := exists_row_of_decode hd
      exact ⟨i, rfl, row_unique hr hr' h h' ▸ hname.symm⟩
    | error e =>
      rw [Machine.decode_error_eq op e hd] at hd
      exact absurd ((decode_eq_error_iff op).1 hd) (not_unlisted_of_row hr h)
  · cases hd : decode op with
    | ok i =>
      obtain ⟨r, hr, -, h⟩ := exists_row_of_decode hd
      exact absurd h (hnone r hr)
    | error e => rw [Machine.decode_error_eq op e hd]

/-- Settles O7: the sum over the first nibbles of the counts of R96's table. -/
theorem unrecognizedOpcodeCount : Obligations.UnrecognizedOpcodeCount := by
  calc ((List.range 65536).filter (fun w => (decodeTableWord 16 w).isNone)).length
      = Nat.count (fun w => Unlisted (w / 4096) w) (4096 * 16) := by
        rw [← List.countP_eq_length_filter]
        exact List.countP_congr fun w hw =>
          (isNone_decodeTableWord_iff (List.mem_range.1 hw)).trans (decide_eq_true_iff).symm
    _ = ∑ m ∈ Finset.range 16, Nat.count (Unlisted m) 4096 := by
        rw [count_mul]
        exact Finset.sum_congr rfl fun m _ => count_congr (unlisted_block_iff m)
    _ = ∑ m ∈ Finset.range 16, unlistedCount m :=
        Finset.sum_congr rfl fun m _ => count_unlisted m
    _ = 21582 := by decide

/-- Settles O1: each word by running the decoder, each line by running the assembler. -/
theorem sampleWordsDecode : Obligations.SampleWordsDecode := by
  unfold Obligations.SampleWordsDecode
  decide

end

/-! ## What every instruction and every step answers (40_control_flow.md R120 to R124) -/

namespace Sys2Proof.Machine

open Sys2Proof

variable {s : State}

theorem FaultKind.code_ne_zero (k : FaultKind) : k.code ≠ 0 := by cases k <;> decide

theorem exec_eq_next (i : Instr) (s : State) : ∃ u, exec i s = .next u :=
  (exec_writesOrFaults s i).imp fun _ hu => hu.1

/-- An instruction that ends faulted from a running state has raised a fault and done nothing else (R123, R222). -/
theorem exec_eq_raise_of_faulted {u : State} {i : Instr} (h : exec i s = .next u) (hs : s.status = .running)
    (hu : u.status = .faulted) : ∃ k info, u = s.raise k info := by
  obtain hw | hraise := exec_next_cases h
  · have hrun : u.status = .running := hw.status.trans hs
    cases hrun.symm.trans hu
  · exact hraise

/-- A step that ends faulted has raised a fault on the state before it, whichever check failed (R123). -/
theorem step_eq_raise_of_faulted {t : State} (h : step s = .next t) (ht : t.status = .faulted) :
    ∃ k info, t = s.raise k info := by
  obtain ⟨hr, ⟨-, rfl⟩ | ⟨op, e, -, -, rfl⟩ | ⟨op, i, u, -, -, hu, ⟨hrun, rfl⟩ | ⟨hf, rfl⟩⟩⟩ :=
    step_next_cases s t h
  · exact ⟨_, _, rfl⟩
  · exact ⟨_, _, rfl⟩
  · cases hrun.symm.trans ht
  · exact exec_eq_raise_of_faulted hu hr hf

theorem step_of_fetch_none (hr : s.status = .running) (hf : s.fetch = none) :
    step s = .next (s.raise .fetchOutOfRange s.pc) := by
  simp only [step, trigger, hr, cycle, hf, raiseFault_eq]

theorem step_of_decode_error {op : Word} {e : DecodeError} (hf : Fetches s op) (hd : decode op = .error e) :
    step s = .next (s.raise .unrecognizedOpcode op) := by
  have hfetch : s.fetch = some op := (fetch_eq_some_iff s op hf.running).2 hf
  simp only [step, trigger, hf.running, cycle, hfetch, hd, raiseFault_eq]

/-- An instruction that ends in a fault is not followed by the tick (R123). -/
theorem Executes.step_eq_of_faulted {op : Word} {i : Instr} {u : State} (h : Executes s op i) (hu : exec i s = .next u)
    (hf : u.status = .faulted) : step s = .next u := by
  simp only [h.step_eq, hu, finishStep, hf]

/-- In the FAULTED state there is no step (R124). -/
theorem step_of_faulted (hs : s.status = .faulted) : step s = .fault .noStepWhenFaulted := by
  simp only [step, trigger, hs]

/-! ## The driver's moves other than reset and step -/

/-- A press or a release writes the keys alone (60_exceptions.md R227). -/
theorem onlyChanges_setKey (i : Key) (b : Bool) :
    OnlyChanges { dirty := true } { s with keys := (s.setKey i b).keys } (s.setKey i b) :=
  onlyChanges_refl _ _

theorem driveKey_eq_next {i : Nat} {b : Bool} {t : State} (h : driveKey i b s = .next t) : ∃ k, t = s.setKey k b := by
  simp only [driveKey] at h
  split at h
  · cases h; exact ⟨_, rfl⟩
  · cases h

theorem onlyChanges_acknowledge : OnlyChanges { dirty := true } { s with keys := s.acknowledge.keys } s.acknowledge :=
  { onlyChanges_refl s { dirty := true } with dirty := nofun }

end Sys2Proof.Machine

/-! ## Decoding what was encoded (30_encoding.md R92, R94) -/

namespace Sys2Proof

theorem decode_encode (i : Instr) : decode (encode i) = .ok i := by
  cases i with
  | cls | ret => rfl
  | jp nnn | call nnn | ldidx nnn | jpb nnn | sei x kk | snei x kk | ldi x kk | addi x kk | rnd x kk | ser x y | sner x y
  | drw x y n => simp [encode, decode]
  | skp x | sknp x => simp [encode, decode, decodeKey]
  | lddt x | waitk x | stdt x | stst x | addidx x | glyph x | bcd x | stm x | ldm x => simp [encode, decode, decodeMisc]
  | mov x y | or x y | and x y | xor x y | add x y | sub x y | shr x y | subn x y | shl x y =>
    simp [encode, decode, decodeEight]

/-- The skips that compare two registers exist with minor opcode 0 only (30_encoding.md R94). -/
theorem decode_formatXyn_of_ne {m n : Nibble} (hm : m = 0x5 ∨ m = 0x9) (x y : Reg) (hn : n ≠ 0) :
    decode (formatXyn m x y n) = .error (.unrecognized (formatXyn m x y n)) := by
  obtain rfl | rfl := hm
  · simpa [decode] using hn
  · simpa [decode] using hn

end Sys2Proof

/-! ## Skips and the stack (R122, R130, R132 to R136) -/

namespace Sys2Proof.Machine

open Sys2Proof

variable (s : State)

theorem pc_skipIf_beq (a b : Byte) : (s.skipIf (a == b)).pc = s.pc + (if a.toNat = b.toNat then 4 else 2) := by
  rw [State.skipIf_pc, apply_ite (s.pc + ·)]
  simp only [beq_iff_eq, BitVec.toNat_inj]

theorem pc_skipIf_bne (a b : Byte) : (s.skipIf (a != b)).pc = s.pc + (if a.toNat = b.toNat then 2 else 4) := by
  rw [State.skipIf_pc, apply_ite (s.pc + ·)]
  simp only [bne_iff_ne, BitVec.toNat_inj, ne_eq, ite_not]

theorem State.top_eq_getElem {k : Nat} (hk : k < 16) (hsp : s.sp.val = k + 1) (h : 0 < s.sp.val) :
    s.top h = s.stack[k] := by
  simp [State.top, hsp]

/-- A call leaves memory alone, so a return that stands at its target is what the next step runs. -/
theorem executes_ret_at_target {nnn : Addr12} (hr : s.status = .running) (hsp : s.sp.val < 16)
    (hnnn : nnn.toNat ≤ 0xFFE) (hhi : s.mem.read nnn.toNat = 0x00) (hlo : s.mem.read (nnn.toNat + 1) = 0xEE) :
    Executes ((s.push s.pc hsp).jump (zextAddr nnn)).tick 0x00EE .ret := by
  refine ⟨⟨hr, (zextAddr_toNat nnn).trans_le hnnn, ?_⟩, decode_encode .ret⟩
  simp [zextAddr_toNat, hhi, hlo]

end Sys2Proof.Machine

section

open Sys2Proof Sys2Proof.Machine

/-- Settles O12: a faulting step is a raise on the state before it, and no fault has code 0. -/
theorem faultingStepChangesOnlyFaultRegisters : Obligations.FaultingStepChangesOnlyFaultRegisters := by
  intro s t h ht
  obtain ⟨k, info, rfl⟩ := step_eq_raise_of_faulted h ht
  exact ⟨faultRaised_raise k info s, k.code_ne_zero⟩

/-- Settles O14: no step, by R124; of the other moves a press, a release and an acknowledgment write the keys or `dirty`. -/
theorem faultedIsLeftOnlyByReset : Obligations.FaultedIsLeftOnlyByReset := by
  intro s hs
  have hstep : ∀ t, step s ≠ .next t := fun t h => by cases (step_of_faulted hs).symm.trans h
  refine ⟨hstep, fun m t h => ?_⟩
  cases m with
  | resetWithLoad image => exact .inl ⟨image, rfl⟩
  | stepTrigger => exact absurd h (hstep t)
  | press i | release i =>
    obtain ⟨k, rfl⟩ := driveKey_eq_next h
    exact .inr ⟨onlyChanges_setKey k _, rfl⟩
  | acknowledge => cases h; exact .inr ⟨onlyChanges_acknowledge, rfl⟩
  | readFramebuffer | readDirty | readFaultRegisters => cases h; exact .inr ⟨onlyChanges_refl _ _, rfl⟩

/-- Settles O8: the tick follows an instruction that ends running, and nothing follows a fault. -/
theorem stepRunsTheDecodedInstruction : Obligations.StepRunsTheDecodedInstruction := by
  intro s op i hx
  obtain ⟨u, hu⟩ := exec_eq_next i s
  exact ⟨u, hu, fun hr => ⟨u.tick, hx.step_eq_tick hu hr, onlyTimers_tick u⟩, hx.step_eq_of_faulted hu⟩

/-- Settles O9: the fetch fails, the decoding fails, or the instruction runs and ends in one of the two statuses. -/
theorem runningMachineAlwaysSteps : Obligations.RunningMachineAlwaysSteps := by
  intro s hr
  cases hf : s.fetch with
  | none => exact ⟨_, step_of_fetch_none hr hf⟩
  | some op =>
    have hop : Fetches s op := (fetch_eq_some_iff s op hr).1 hf
    cases hd : decode op with
    | error e => exact ⟨_, step_of_decode_error hop hd⟩
    | ok i =>
      obtain ⟨u, -, hrun, hfault⟩ := stepRunsTheDecodedInstruction s op i ⟨hop, hd⟩
      cases hu : u.status with
      | running => exact (hrun hu).imp fun t ht => ht.1
      | faulted => exact ⟨u, hfault hu⟩

/-- Settles O16: both are the update jump to the zero-extended immediate. -/
theorem jumpsSetThePc : Obligations.JumpsSetThePc := by
  intro nnn s
  exact ⟨⟨decode_encode (.jp nnn), _, rfl, zextAddr_toNat nnn, onlyChanges_jump s _⟩,
    decode_encode (.jpb nnn), _, rfl, zextAddr_toNat nnn, onlyChanges_jump s _⟩

/-- Settles O17: the two branches of `CALL`, a push or a fault. -/
theorem callPushesItsOwnAddress : Obligations.CallPushesItsOwnAddress := by
  intro nnn s
  refine ⟨decode_encode (.call nnn), fun h => ?_, fun hfull => ?_⟩
  · exact ⟨_, execCall_of_lt nnn s h, Vector.getElem_set_self .., rfl, zextAddr_toNat nnn,
      onlyChanges_push_jump s _ _ h⟩
  · exact ⟨_, execCall_of_full nnn s (by omega), faultRaised_raise .stackOverflow s.pc s⟩

/-- Settles O18: the two branches of `RET`, a pop or a fault. -/
theorem returnResumesAfterTheCall : Obligations.ReturnResumesAfterTheCall := by
  intro s
  refine ⟨decode_encode .ret, fun k hk hsp => ?_, fun hempty => ?_⟩
  · have hpos : 0 < s.sp.val := by omega
    refine ⟨_, execRet_of_pos s hpos, ?_, ?_, onlyChanges_pop_jump s _⟩
    · simp [hsp]
    · rw [State.jump_pc, s.top_eq_getElem hk hsp]
  · exact ⟨_, execRet_of_empty s (by omega), faultRaised_raise .stackUnderflow s.pc s⟩

/-- Settles O20: both are `skipIf`, on the immediate. -/
theorem skipsCompareWithImmediate : Obligations.SkipsCompareWithImmediate := by
  intro x kk s
  exact ⟨⟨decode_encode (.sei x kk), _, rfl, onlyChanges_skipIf s _, pc_skipIf_beq s _ _⟩,
    decode_encode (.snei x kk), _, rfl, onlyChanges_skipIf s _, pc_skipIf_bne s _ _⟩

/-- Settles O21: both are `skipIf`, on the second register; the decoder takes minor opcode 0 alone. -/
theorem skipsCompareRegisters : Obligations.SkipsCompareRegisters := by
  intro x y s
  exact ⟨fun n hn => ⟨decode_formatXyn_of_ne (.inl rfl) x y hn, decode_formatXyn_of_ne (.inr rfl) x y hn⟩,
    ⟨decode_encode (.ser x y), _, rfl, onlyChanges_skipIf s _, pc_skipIf_beq s _ _⟩,
    decode_encode (.sner x y), _, rfl, onlyChanges_skipIf s _, pc_skipIf_bne s _ _⟩

/-- Settles O19: the return at the call's target runs next, and it finds on top what the call pushed. -/
theorem callThenReturnComesBack : Obligations.CallThenReturnComesBack := by
  intro s op nnn hx hsp hnnn hhi hlo
  have hr : s.status = .running := hx.fetches.running
  have hpos : 0 < ((s.push s.pc hsp).jump (zextAddr nnn)).tick.sp.val := Nat.succ_pos _
  have hcall := hx.step_eq_tick (execCall_of_lt nnn s hsp) hr
  have hret := (executes_ret_at_target s hr hsp hnnn hhi hlo).step_eq_tick (execRet_of_pos _ hpos) hr
  refine ⟨_, _, hcall, hret, zextAddr_toNat nnn, rfl, ?_, rfl, hr⟩
  have htop : ((s.push s.pc hsp).jump (zextAddr nnn)).tick.top hpos = s.pc :=
    (State.top_eq_getElem _ hsp rfl hpos).trans (Vector.getElem_set_self ..)
  rw [State.tick_pc, State.jump_pc, htop]
  have hpc : s.pc.toNat ≤ 0xFFE := hx.fetches.pc
  bv_omega

end

/-! ## One result, and one result with a flag (41_register_alu.md R140 to R153) -/

namespace Sys2Proof.Machine

open Sys2Proof

theorem flagByte_toNat (c : Bool) : (flagByte c).toNat = c.toNat := by cases c <;> rfl

/-- The bit moved out to the right as a number (R148). -/
theorem flagByte_bitOutRight (a : Byte) : (flagByte (bitOutRight a)).toNat = a.toNat % 2 := by
  rw [flagByte_toNat, bitOutRight, BitVec.getLsbD, Nat.toNat_testBit, pow_zero, Nat.div_one]

/-- The bit moved out to the left as a number: above bit 7 a byte has none (R150). -/
theorem flagByte_bitOutLeft (a : Byte) : (flagByte (bitOutLeft a)).toNat = a.toNat / 128 := by
  rw [flagByte_toNat, bitOutLeft, BitVec.getLsbD, Nat.toNat_testBit]
  have := a.isLt
  omega

theorem toNat_sub_byte (a b : Byte) : (a - b).toNat = (a.toNat + 256 - b.toNat) % 256 := by bv_omega

theorem toNat_shiftRight_one (a : Byte) : (a >>> 1).toNat = a.toNat / 2 := by
  rw [BitVec.toNat_ushiftRight, Nat.shiftRight_one]

theorem toNat_shiftLeft_one (a : Byte) : (a <<< 1).toNat = 2 * a.toNat % 256 := by
  rw [BitVec.toNat_shiftLeft, Nat.shiftLeft_eq, pow_one, Nat.mul_comm]

variable (s : State)

/-- What `V[x]` reads after a one-register instruction: its result. -/
theorem reg_setReg_advance (x : Reg) (b : Byte) : (s.setReg x b).advance.reg x = b := State.reg_setReg_same s x b

/-- How an instruction that writes a result and a flag ends, in numbers: the flag register holds the flag whatever the
destination (R151, R152). -/
theorem exists_next_of_putResult {r : Result} {x : Reg} {b : Byte} {c : Bool} {n f : Nat}
    (hr : r = .next (s.putResult x b c)) (hb : b.toNat = n) (hf : (flagByte c).toNat = f) :
    ∃ t, r = .next t ∧ (x ≠ 15 → (t.reg x).toNat = n) ∧ (t.reg 15).toNat = f ∧
      t.pc = s.pc + 2 ∧ OnlyChanges { regs := [x, 15] } s t := by
  refine ⟨_, hr, fun hx => ?_, ?_, s.putResult_pc x b c, onlyChanges_putResult s x b c⟩
  · rw [reg_dest_putResult s x b c hx, hb]
  · rw [reg_flag_putResult, hf]

end Sys2Proof.Machine

section

open Sys2Proof Sys2Proof.Machine

/-- Settles O25: the carry is bit 8 of the exact sum. -/
theorem addSetsCarry : Obligations.AddSetsCarry := by
  intro x y s
  exact ⟨decode_encode (.add x y),
    exists_next_of_putResult s rfl (BitVec.toNat_add ..) (flagByte_carryOut ..)⟩

/-- Settles O26: one subtraction, with the operands in either order. -/
theorem subtractionsSetNoBorrow : Obligations.SubtractionsSetNoBorrow := by
  intro x y s
  exact ⟨⟨decode_encode (.sub x y), exists_next_of_putResult s rfl (toNat_sub_byte ..) (flagByte_noBorrow ..)⟩,
    decode_encode (.subn x y), exists_next_of_putResult s rfl (toNat_sub_byte ..) (flagByte_noBorrow ..)⟩

/-- Settles O27: neither shift's meaning mentions its second register. -/
theorem shiftsMoveOneBitAndIgnoreY : Obligations.ShiftsMoveOneBitAndIgnoreY := by
  intro x y s
  exact ⟨⟨decode_encode (.shr x y), fun _ => rfl,
      exists_next_of_putResult s rfl (toNat_shiftRight_one _) (flagByte_bitOutRight _)⟩,
    decode_encode (.shl x y), fun _ => rfl,
      exists_next_of_putResult s rfl (toNat_shiftLeft_one _) (flagByte_bitOutLeft _)⟩

/-- Settles O22: both are one register write and the update next. -/
theorem loadImmediateAndMove : Obligations.LoadImmediateAndMove := by
  intro x y kk s
  exact ⟨⟨decode_encode (.ldi x kk), _, rfl, reg_setReg_advance s x _, rfl, onlyChanges_setReg s x _⟩,
    decode_encode (.mov x y), _, rfl, reg_setReg_advance s x _, rfl, onlyChanges_setReg s x _⟩

/-- Settles O23: a register write of the sum of two bytes, which wraps. -/
theorem addImmediateWrapsWithoutFlag : Obligations.AddImmediateWrapsWithoutFlag := by
  intro x kk s
  refine ⟨decode_encode (.addi x kk), _, rfl, ?_, rfl, onlyChanges_setReg s x _⟩
  rw [reg_setReg_advance, BitVec.toNat_add]

/-- Settles O24: a register write of the bitwise result, read bit by bit. -/
theorem bitwiseOperationsActPerBit : Obligations.BitwiseOperationsActPerBit := by
  intro x y s
  refine ⟨⟨decode_encode (.or x y), decode_encode (.and x y), decode_encode (.xor x y)⟩,
    ⟨_, rfl, rfl, onlyChanges_setReg s x _, fun k _ => ?_⟩, ⟨_, rfl, rfl, onlyChanges_setReg s x _, fun k _ => ?_⟩,
    _, rfl, rfl, onlyChanges_setReg s x _, fun k _ => ?_⟩
  · rw [reg_setReg_advance, BitVec.getLsbD_or]
  · rw [reg_setReg_advance, BitVec.getLsbD_and]
  · rw [reg_setReg_advance, BitVec.getLsbD_xor]

end

/-! ## The index register, and stores and loads at `I` (42_index_and_memory.md R160 to R166) -/

namespace Sys2Proof.Machine

open Sys2Proof

/-- The address of a glyph as a number: for no byte does the sum wrap (R162). -/
theorem glyphAddress_toNat (b : Byte) : (glyphAddress b).toNat = 0x50 + 5 * b.toNat := by
  have hb : (zextByte b).toNat = b.toNat := zextByte_toNat b
  unfold glyphAddress
  bv_omega

/-- The digits of a byte as numbers: each fits a byte (R163). -/
theorem map_toNat_decimalDigits (b : Byte) :
    (decimalDigits b).map BitVec.toNat = [b.toNat / 100, b.toNat / 10 % 10, b.toNat % 10] := by
  have := b.isLt
  simp only [decimalDigits, List.map, BitVec.toNat_ofNat, List.cons.injEq, and_true]
  omega

/-- A store of bytes at `a` leaves the byte of offset `k` at `a + k`. -/
theorem Memory.read_writeList_add (m : Memory) (a : Nat) (bs : List Byte) {k : Nat} (h : k < bs.length) :
    (m.writeList a bs).read (a + k) = bs[k] := by
  have hk : a ≤ a + k ∧ a + k - a < bs.length := by omega
  rw [Memory.read_writeList, dif_pos hk]
  simp only [Nat.add_sub_cancel_left]

/-- The byte of offset `k` after a store of decimal digits, as a number (R163). -/
theorem Memory.toNat_read_writeList_decimalDigits (m : Memory) (a : Nat) (b : Byte) {k : Nat} (h : k < 3) :
    ((m.writeList a (decimalDigits b)).read (a + k)).toNat = [b.toNat / 100, b.toNat / 10 % 10, b.toNat % 10][k] := by
  rw [Memory.read_writeList_add m a (decimalDigits b) h]
  simp only [← map_toNat_decimalDigits]
  exact (List.getElem_map BitVec.toNat).symm

/-- `STM` stores one byte more than the number of its register (R164). -/
theorem onlyChanges_stm (x : Reg) (s : State) :
    OnlyChanges { memFirst := s.index.toNat, memCount := x.val + 1 } s
      (s.setMem (s.mem.writeList s.index.toNat (s.regsUpTo x))).advance :=
  s.length_regsUpTo x ▸ onlyChanges_storeAtIndex (s.regsUpTo x) s

/-- `STM` with some address of its range outside memory (R164, R166). -/
theorem exec_stm_outOfRange (x : Reg) (s : State) (h : 4096 ≤ s.index.toNat + x.val) :
    exec (.stm x) s = .next (s.raise .memoryOutOfRange s.index) :=
  storeAtIndex_outOfRange _ s (by simpa using h)

/-- `LDM` with its whole range in memory (R165, R166). -/
theorem exec_ldm_inRange (x : Reg) (s : State) (h : s.index.toNat + x.val < 4096) :
    exec (.ldm x) s = .next (s.setRegs (loadRegs s.mem s.index.toNat (x.val + 1) s.v)).advance :=
  execLdm_of_exists x s ((rangeExists_iff _ _).2 h)

/-- `LDM` with some address of its range outside memory (R165, R166). -/
theorem exec_ldm_outOfRange (x : Reg) (s : State) (h : 4096 ≤ s.index.toNat + x.val) :
    exec (.ldm x) s = .next (s.raise .memoryOutOfRange s.index) :=
  execLdm_of_not_exists x s (mt (rangeExists_iff _ _).1 (not_lt.2 h))

end Sys2Proof.Machine

section

open Sys2Proof Sys2Proof.Machine

/-- Settles O32: the range of three bytes exists and holds the digits, or the store faults. -/
theorem bcdStoresDecimalDigits : Obligations.BcdStoresDecimalDigits := by
  intro x s
  have hdigit (k : Nat) (hk : k < 3) :=
    s.mem.toNat_read_writeList_decimalDigits s.index.toNat (s.reg x) hk
  refine ⟨decode_encode (.bcd x), fun h => ?_, fun h => ?_⟩
  · exact ⟨_, storeAtIndex_inRange (decimalDigits (s.reg x)) s h, hdigit 0 (by decide), hdigit 1 (by decide),
      hdigit 2 (by decide), rfl, onlyChanges_storeAtIndex (decimalDigits (s.reg x)) s⟩
  · exact ⟨_, storeAtIndex_outOfRange (decimalDigits (s.reg x)) s h, faultRaised_raise .memoryOutOfRange s.index s⟩

/-- Settles O33: the range exists and holds the registers in order, or the store faults. -/
theorem storeRegisterRange : Obligations.StoreRegisterRange := by
  intro x s
  refine ⟨decode_encode (.stm x), fun h => ?_, fun h => ?_⟩
  · exact ⟨_, exec_stm_inRange x s h, fun r hr => s.mem.read_writeList_regsUpTo s.index.toNat s hr, rfl,
      onlyChanges_stm x s⟩
  · exact ⟨_, exec_stm_outOfRange x s h, faultRaised_raise .memoryOutOfRange s.index s⟩

/-- Settles O34: the range exists and each register up to `x` takes its own byte, or the load faults. -/
theorem loadRegisterRange : Obligations.LoadRegisterRange := by
  intro x s
  refine ⟨decode_encode (.ldm x), fun h => ?_, fun h => ?_⟩
  · exact ⟨_, exec_ldm_inRange x s h, fun r hr => (reg_setRegs_loadRegs s x r).trans (if_pos hr), rfl,
      onlyChanges_setRegs_loadRegs s x⟩
  · exact ⟨_, exec_ldm_outOfRange x s h, faultRaised_raise .memoryOutOfRange s.index s⟩

/-- Settles O29: the index register takes the zero-extended address, which has 12 bits. -/
theorem loadIndexTakesTheAddress : Obligations.LoadIndexTakesTheAddress := by
  intro nnn s
  have hI : (zextAddr nnn).toNat = nnn.toNat := zextAddr_toNat nnn
  exact ⟨decode_encode (.ldidx nnn), _, rfl, hI, hI.trans_le (Nat.le_of_lt_succ nnn.isLt), rfl,
    onlyChanges_setIndex s _⟩

/-- Settles O30: the index register takes the glyph address of the whole byte. -/
theorem glyphAddressIsFiveTimesTheDigit : Obligations.GlyphAddressIsFiveTimesTheDigit := by
  intro x s
  exact ⟨decode_encode (.glyph x), _, rfl, glyphAddress_toNat (s.reg x), rfl, onlyChanges_setIndex s _⟩

/-- Settles O31: a 16-bit addition of the zero-extended byte. -/
theorem addToIndexWraps : Obligations.AddToIndexWraps := by
  intro x s
  refine ⟨decode_encode (.addidx x), _, rfl, ?_, rfl, onlyChanges_setIndex s _⟩
  rw [State.advance_index, State.setIndex_index, BitVec.toNat_add, zextByte_toNat]

end

/-! ## The generator (43_random.md R170 to R174) -/

namespace Sys2Proof.Machine

open Sys2Proof

/-- `Gen()` advances the generator by eight bit steps (R172). -/
theorem gen_fst (r : Word) : (gen r).1 = (fun r => (Config.rngStep r).1)^[8] r :=
  (genBits_spec Config.rngStep 8 r le_rfl).1

/-- Bit `k` of the byte is the bit drawn after `k` bit steps: the first drawn is bit 0 (R172). -/
theorem getLsbD_gen_snd (r : Word) {k : Nat} (hk : k < 8) :
    (gen r).2.getLsbD k = (Config.rngStep ((fun r => (Config.rngStep r).1)^[k] r)).2 := by
  have hbit := (genBits_spec Config.rngStep 8 r le_rfl).2 k
  rwa [decide_eq_true hk, Bool.true_and] at hbit

/-- No row of R39 but that of `RND` names the generator. -/
theorem writesOf_rng (i : Instr) (s : State) (h : ∀ x kk, i ≠ .rnd x kk) : (writesOf i s).rng = false := by
  cases i with
  | rnd x kk => exact absurd rfl (h x kk)
  | waitk x => rw [writesOf]; split <;> rfl
  | _ => rfl

/-- What an instruction can do to the generator: nothing, or the one `Gen()` of an `RND` (R173). -/
theorem exec_rng_cases {s u : State} {i : Instr} (h : exec i s = .next u) :
    u.rng = s.rng ∨ ∃ x kk, i = .rnd x kk ∧ u.rng = (gen s.rng).1 := by
  by_cases hrnd : ∃ x kk, i = .rnd x kk
  · obtain ⟨x, kk, rfl⟩ := hrnd
    cases h
    exact .inr ⟨x, kk, rfl, rfl⟩
  · left
    obtain hw | ⟨k, info, rfl⟩ := exec_next_cases h
    · exact hw.rng (writesOf_rng i s fun x kk hi => hrnd ⟨x, kk, hi⟩)
    · rfl

end Sys2Proof.Machine

section

open Sys2Proof Sys2Proof.Machine

/-- Settles O37: `RND` is one `Gen()` and the write of its byte AND `kk`, read bit by bit. -/
theorem randomLoadsEightDrawnBits : Obligations.RandomLoadsEightDrawnBits := by
  intro x kk s
  refine ⟨decode_encode (.rnd x kk), _, rfl, gen_fst s.rng, fun k hk => ?_, rfl, onlyChanges_setRng_setReg s _ x _⟩
  rw [reg_setReg_advance, BitVec.getLsbD_and, getLsbD_gen_snd s.rng hk]

/-- Settles O38: a fault and the tick leave the generator alone, and `exec_rng_cases` says what the instruction does to it. -/
theorem onlyRandomAdvancesTheGenerator : Obligations.OnlyRandomAdvancesTheGenerator := by
  intro s t h
  obtain ⟨hr, ⟨-, rfl⟩ | ⟨op, e, -, -, rfl⟩ | ⟨op, i, u, hf, hd, hu, ht⟩⟩ := step_next_cases s t h
  · exact .inl rfl
  · exact .inl rfl
  · have htu : t.rng = u.rng := by obtain ⟨-, rfl⟩ | ⟨-, rfl⟩ := ht <;> rfl
    rw [htu]
    obtain hsame | ⟨x, kk, rfl, hgen⟩ := exec_rng_cases hu
    · exact .inl hsame
    · exact .inr ⟨op, x, kk, ⟨(fetch_eq_some_iff s op hr).1 hf, hd⟩, hgen.trans (gen_fst s.rng)⟩

end

/-! ## The sprite engine (44_display.md R181 to R187) -/

namespace Sys2Proof.Machine

open Sys2Proof

section
variable {px py : Nat} {bs : List Byte} (hlen : bs.length ≤ 32)
include hlen

/-- A draw toggles exactly the cells that the sprite covers (R183). -/
theorem cell_draw (f : Frame) (i : Fin 2048) :
    cell (draw px py bs f).frame i = (cell f i ^^ decide (spriteCovers px py bs i)) :=
  (draw_spec px py bs hlen f).1 i

/-- The collision bit of a draw is whether a covered cell was lit (R185). -/
theorem collision_draw_iff (f : Frame) :
    (draw px py bs f).collision = true ↔ ∃ i, spriteCovers px py bs i ∧ cell f i = true :=
  (draw_spec px py bs hlen f).2

theorem cell_draw_of_covers {i : Fin 2048} (h : spriteCovers px py bs i) (f : Frame) :
    cell (draw px py bs f).frame i = !cell f i := by
  rw [cell_draw hlen, decide_eq_true h, Bool.xor_true]

theorem cell_draw_of_not_covers {i : Fin 2048} (h : ¬ spriteCovers px py bs i) (f : Frame) :
    cell (draw px py bs f).frame i = cell f i := by
  rw [cell_draw hlen, decide_eq_false h, Bool.xor_false]

theorem cell_draw_eq_self_iff (f : Frame) (i : Fin 2048) :
    cell (draw px py bs f).frame i = cell f i ↔ ¬ spriteCovers px py bs i := by
  refine ⟨fun heq h => ?_, fun h => cell_draw_of_not_covers hlen h f⟩
  rw [cell_draw_of_covers hlen h] at heq
  exact Bool.not_ne_self _ heq

/-- A cell is lit after a draw when it was lit and stays, or was dark and is toggled. -/
theorem cell_draw_eq_true_iff (f : Frame) (i : Fin 2048) :
    cell (draw px py bs f).frame i = true ↔
      (cell f i = true ∧ ¬ spriteCovers px py bs i) ∨ (cell f i = false ∧ spriteCovers px py bs i) := by
  by_cases h : spriteCovers px py bs i
  · simp [cell_draw_of_covers hlen h, h]
  · simp [cell_draw_of_not_covers hlen h, h]

/-- The toggles of a second draw undo those of the first (R187). -/
theorem draw_draw_frame (f : Frame) : (draw px py bs (draw px py bs f).frame).frame = f :=
  cell_ext _ _ fun i => by rw [cell_draw hlen, cell_draw hlen, Bool.xor_assoc, Bool.xor_self, Bool.xor_false]

/-- A covered cell that the second draw finds lit is one that the first turned on (R187). -/
theorem collision_draw_draw_iff (f : Frame) :
    (draw px py bs (draw px py bs f).frame).collision = true ↔
      ∃ i, cell f i = false ∧ cell (draw px py bs f).frame i = true := by
  rw [collision_draw_iff hlen]
  refine exists_congr fun i => ?_
  by_cases h : spriteCovers px py bs i
  · simp [cell_draw_of_covers hlen h, h]
  · simp [cell_draw_of_not_covers hlen h, h]

/-- A covered cell is lit before the first draw or before the second (R187). -/
theorem collision_draw_or_draw {i : Fin 2048} (h : spriteCovers px py bs i) (f : Frame) :
    (draw px py bs f).collision = true ∨ (draw px py bs (draw px py bs f).frame).collision = true := by
  rw [collision_draw_iff hlen, collision_draw_iff hlen]
  cases hf : cell f i with
  | true => exact .inl ⟨i, h, hf⟩
  | false => exact .inr ⟨i, h, by rw [cell_draw_of_covers hlen h, hf, Bool.not_false]⟩

/-- No two bits of a sprite of at most 32 rows land on one cell (R183, R187). -/
theorem spriteCell_injective {row row' col col' : Nat} (hrow : row < bs.length) (hrow' : row' < bs.length)
    (hcol : col < 8) (hcol' : col' < 8)
    (h : (py + row) % 32 * 64 + (px + col) % 64 = (py + row') % 32 * 64 + (px + col') % 64) :
    row = row' ∧ col = col' := by
  have hrows : (py + row) % 32 = (py + row') % 32 := by omega
  have hcols : (px + col) % 64 = (px + col') % 64 := by omega
  exact ⟨by omega, by omega⟩

end

theorem exists_getLsbD_of_ne_zero {b : Byte} (h : b ≠ 0) : ∃ k < 8, b.getLsbD k = true := by
  contrapose! h
  exact BitVec.eq_of_getLsbD_eq fun k hk => by simpa using h k hk

/-- A sprite with a bit of 1 covers some cell. -/
theorem exists_spriteCovers {bs : List Byte} {b : Byte} (hmem : b ∈ bs) (hb : b ≠ 0) (px py : Nat) :
    ∃ i, spriteCovers px py bs i := by
  obtain ⟨row, hrow, rfl⟩ := List.getElem_of_mem hmem
  obtain ⟨k, hk, hbit⟩ := exists_getLsbD_of_ne_zero hb
  have hcol : 7 - (7 - k) = k := by omega
  exact ⟨⟨(py + row) % 32 * 64 + (px + (7 - k)) % 64, by omega⟩, ⟨row, hrow⟩, ⟨7 - k, by omega⟩,
    by simpa only [hcol] using hbit, rfl⟩

/-! ## The display instructions (R182, R184), and what a step does to the display (R186) -/

theorem spriteExists_iff (base : Word) (n : RowCount) :
    spriteExists base n = true ↔ n.val = 0 ∨ base.toNat + (n.val - 1) < 4096 := by
  rw [spriteExists, Bool.or_eq_true, beq_iff_eq, rangeExists_iff]

variable {s t u : State}

/-- The framebuffer that `CLS` leaves (R182). -/
theorem cell_clearFrame (i : Fin 2048) : cell clearFrame i = false := pixel_clearFrame _ _

/-- What `DRW` draws is the sprite of the `n` bytes at `I`, one by one (R184). -/
theorem State.drawing_eq (s : State) (x y : Reg) (n : RowCount) :
    s.drawing x y n = draw (s.reg x).toNat (s.reg y).toNat
      ((List.range n.val).map fun r => s.mem.read (s.index.toNat + r)) s.fb := by
  rw [State.drawing, readList_eq_map]

/-- A flag written before the update next is what the flag register reads, as a number. -/
theorem toNat_reg_flag_setFlag_advance (s : State) (c : Bool) : ((s.setFlag c).advance.reg 15).toNat = c.toNat := by
  rw [State.reg_advance, State.reg_setFlag, if_pos rfl, flagByte_toNat]

/-- `i` is one of the two instructions that write the framebuffer (R186). -/
abbrev WritesFrame (i : Instr) : Prop := i = .cls ∨ ∃ x y n, i = .drw x y n

/-- `CLS` and `DRW` set `dirty`, unless a fault is raised (R182, R184). -/
theorem WritesFrame.exec_next_cases {i : Instr} (hi : WritesFrame i) (h : exec i s = .next u) :
    u.dirty = true ∨ ∃ k info, u = s.raise k info := by
  obtain rfl | ⟨x, y, n, rfl⟩ := hi
  · cases h
    exact .inl rfl
  · by_cases hr : spriteExists s.index n = true
    · cases h.symm.trans (execDrw_of_exists x y n s hr)
      exact .inl rfl
    · cases h.symm.trans (execDrw_of_not_exists x y n s hr)
      exact .inr ⟨_, _, rfl⟩

/-- No row of R39 but those of `CLS` and `DRW` names the framebuffer or `dirty`. -/
theorem writesOf_display {i : Instr} (hi : ¬ WritesFrame i) (s : State) :
    (writesOf i s).fb = false ∧ (writesOf i s).dirty = false := by
  cases i with
  | cls => exact absurd (.inl rfl) hi
  | drw x y n => exact absurd (.inr ⟨x, y, n, rfl⟩) hi
  | waitk x => rw [writesOf]; split <;> exact ⟨rfl, rfl⟩
  | _ => exact ⟨rfl, rfl⟩

/-- What an instruction can do to the display: nothing, or a draw or clear that sets `dirty`. -/
theorem exec_display_cases {i : Instr} (h : exec i s = .next u) :
    (u.fb = s.fb ∧ u.dirty = s.dirty) ∨ (WritesFrame i ∧ u.dirty = true) := by
  by_cases hi : WritesFrame i
  · obtain hd | ⟨k, info, rfl⟩ := hi.exec_next_cases h
    · exact .inr ⟨hi, hd⟩
    · exact .inl ⟨rfl, rfl⟩
  · obtain ⟨hfb, hdirty⟩ := writesOf_display hi s
    obtain hw | ⟨k, info, rfl⟩ := exec_next_cases h
    · exact .inl ⟨hw.fb hfb, hw.dirty hdirty⟩
    · exact .inl ⟨rfl, rfl⟩

/-- What a step can do to the display: a fault and the tick leave it alone, so it is what the instruction does. -/
theorem step_display_cases (h : step s = .next t) :
    (t.fb = s.fb ∧ t.dirty = s.dirty) ∨ ((∃ op i, Executes s op i ∧ WritesFrame i) ∧ t.dirty = true) := by
  obtain ⟨hr, ⟨-, rfl⟩ | ⟨op, e, -, -, rfl⟩ | ⟨op, i, u, hf, hd, hu, ht⟩⟩ := step_next_cases s t h
  · exact .inl ⟨rfl, rfl⟩
  · exact .inl ⟨rfl, rfl⟩
  · have htu : t.fb = u.fb ∧ t.dirty = u.dirty := by obtain ⟨-, rfl⟩ | ⟨-, rfl⟩ := ht <;> exact ⟨rfl, rfl⟩
    have hx : Executes s op i := ⟨(fetch_eq_some_iff s op hr).1 hf, hd⟩
    rw [htu.1, htu.2]
    exact (exec_display_cases hu).imp_right fun ⟨hi, hdirty⟩ => ⟨⟨op, i, hx, hi⟩, hdirty⟩

/-- A step that ends running ran its instruction to a running state, then ticked (40_control_flow.md R121). -/
theorem Executes.exists_exec_of_running {op : Word} {i : Instr} (hx : Executes s op i) (h : step s = .next t)
    (ht : t.status = .running) : ∃ u, exec i s = .next u ∧ u.status = .running ∧ t = u.tick := by
  obtain ⟨u, hu⟩ := exec_eq_next i s
  cases hs : u.status with
  | running =>
    cases h.symm.trans (hx.step_eq_tick hu hs)
    exact ⟨u, hu, hs, rfl⟩
  | faulted =>
    cases h.symm.trans (hx.step_eq_of_faulted hu hs)
    cases hs.symm.trans ht

end Sys2Proof.Machine

section

open Sys2Proof Sys2Proof.Machine

/-- Settles O40: the sprite exists and is drawn, which `cell_draw_eq_true_iff` and `collision_draw_iff` describe, or `DRW`
faults. -/
theorem drawXorsTheSpriteAndReportsCollision : Obligations.DrawXorsTheSpriteAndReportsCollision := by
  intro x y n s
  refine ⟨decode_encode (.drw x y n), fun h => ?_, fun hn hout => ?_⟩
  · have hlen : ((List.range n.val).map fun r => s.mem.read (s.index.toNat + r)).length ≤ 32 := by simp; omega
    have hex := execDrw_of_exists x y n s ((spriteExists_iff _ _).2 h)
    rw [s.drawing_eq] at hex
    refine ⟨_, hex, ⟨cell_draw_eq_true_iff hlen s.fb, fun hlit => ?_, fun hlit => ?_⟩, rfl, rfl,
      onlyChanges_setFrame_setFlag s _ _⟩
    · rw [toNat_reg_flag_setFlag_advance, (collision_draw_iff hlen s.fb).2 hlit, Bool.toNat_true]
    · rw [toNat_reg_flag_setFlag_advance, Bool.eq_false_iff.2 (mt (collision_draw_iff hlen s.fb).1 hlit),
        Bool.toNat_false]
  · have hno : ¬ spriteExists s.index n = true := by rw [spriteExists_iff]; omega
    exact ⟨_, execDrw_of_not_exists x y n s hno, faultRaised_raise .memoryOutOfRange s.index s⟩

/-- Settles O41: a draw is an XOR of the cells that the sprite covers. -/
theorem drawTwiceRestoresTheFramebuffer : Obligations.DrawTwiceRestoresTheFramebuffer := by
  intro px py bs f h15
  have hlen : bs.length ≤ 32 := by omega
  refine ⟨fun row hrow row' hrow' col hcol col' hcol' => spriteCell_injective hlen hrow hrow' hcol hcol',
    cell_draw_eq_self_iff hlen f, collision_draw_iff hlen f, draw_draw_frame hlen f, collision_draw_draw_iff hlen f, ?_⟩
  rintro ⟨b, hmem, hb⟩
  obtain ⟨i, hi⟩ := exists_spriteCovers hmem hb px py
  exact collision_draw_or_draw hlen hi f

/-- Settles O42: `step_display_cases` for what a step leaves, `WritesFrame.exec_next_cases` for what `CLS` and `DRW` set. -/
theorem dirtyMarksEveryDrawAndClear : Obligations.DirtyMarksEveryDrawAndClear := by
  intro s t h
  have hset : ∀ op i, Executes s op i → WritesFrame i → t.status = .running → t.dirty = true := by
    intro op i hx hi ht
    obtain ⟨u, hu, hrun, rfl⟩ := hx.exists_exec_of_running h ht
    obtain hdirty | ⟨k, info, rfl⟩ := hi.exec_next_cases hu
    · exact hdirty
    · cases hrun
  obtain ⟨hfb, hdirty⟩ | ⟨hx, hdirty⟩ := step_display_cases h
  · exact ⟨hdirty.trans, fun hne => absurd hfb hne, fun hne => absurd hdirty hne, hset⟩
  · exact ⟨fun _ => hdirty, fun _ => hdirty, fun _ => hx, hset⟩

/-- Settles O39: `CLS` stores the clear framebuffer, which sets `dirty`. -/
theorem clearBlanksTheFramebuffer : Obligations.ClearBlanksTheFramebuffer := by
  intro s
  exact ⟨decode_encode .cls, _, rfl, cell_clearFrame, rfl, rfl, onlyChanges_setFrame s _⟩

end

/-! ## The keypad (45_keypad.md R190 to R193) -/

namespace Sys2Proof.Machine

open Sys2Proof

/-- A key skip whose register names a key tests that key's level (R190, R191). -/
theorem keySkip_of_lt (x : Reg) (s : State) (h : (s.reg x).toNat < 16) (wanted : Bool) :
    keySkip x wanted s = .next (s.skipIf (s.key ⟨(s.reg x).toNat, h⟩ == wanted)) :=
  keySkip_of_some (keyIndex_of_lt _ h) wanted

/-- A key skip whose register is above 15 faults with the whole byte: there is no mask (R193). -/
theorem exists_faultRaised_of_keySkip {x : Reg} {s : State} (h : 15 < (s.reg x).toNat) (wanted : Bool) :
    ∃ t, keySkip x wanted s = .next t ∧ FaultRaised 6 t.faultInfo s t ∧ t.faultInfo.toNat = (s.reg x).toNat :=
  ⟨_, keySkip_of_none (keyIndex_of_le _ h) wanted, faultRaised_raise .keyIndexOutOfRange _ s, zextByte_toNat _⟩

variable (s : State)

theorem pc_skipIf (c : Bool) : (s.skipIf c).pc = s.pc + (if c = true then 4 else 2) := by
  rw [State.skipIf_pc, apply_ite (s.pc + ·)]

theorem pc_skipIf_beq_false (c : Bool) : (s.skipIf (c == false)).pc = s.pc + (if c = true then 2 else 4) := by
  cases c <;> rfl

/-- A pressed key with none pressed below it is the lowest one (R192). -/
theorem State.lowestKey_eq_some {k : Key} (hk : s.key k = true) (hlow : ∀ j : Key, j < k → s.key j = false) :
    s.lowestKey = some k := by
  refine List.find?_eq_some_iff_getElem.2 ⟨hk, k.val, by simp, by simp, fun j hj => ?_⟩
  have hjk : s.key ⟨j, hj.trans k.isLt⟩ = false := hlow _ hj
  simpa using hjk

variable {s}

/-- With no key pressed, `WAITK` is the update stay (R192). -/
theorem exec_waitk_of_no_key (x : Reg) (hk : ∀ k : Key, s.key k = false) : exec (.waitk x) s = .next s :=
  execWaitk_of_none x s (s.lowestKey_eq_none_iff.2 (by simp [hk]))

/-- The tick leaves what the next step fetches and decodes. -/
theorem Executes.tick {op : Word} {i : Instr} (h : Executes s op i) : Executes s.tick op i :=
  ⟨⟨h.fetches.running, h.fetches.pc, h.fetches.bytes⟩, h.decodes⟩

end Sys2Proof.Machine

section

open Sys2Proof Sys2Proof.Machine

/-- Settles O43: both are `keySkip`, for opposite levels. -/
theorem keySkipsTestTheNamedKey : Obligations.KeySkipsTestTheNamedKey := by
  intro x s
  have hskp : exec (.skp x) s = keySkip x true s := execSkp_eq_keySkip x s
  have hsknp : exec (.sknp x) s = keySkip x false s := execSknp_eq_keySkip x s
  rw [hskp, hsknp]
  refine ⟨⟨decode_encode (.skp x), decode_encode (.sknp x)⟩, fun h => ⟨?_, ?_⟩, fun h => ?_⟩
  · refine ⟨_, keySkip_of_lt x s h true, onlyChanges_skipIf s _, ?_⟩
    rw [beq_true, pc_skipIf, State.key]
  · exact ⟨_, keySkip_of_lt x s h false, onlyChanges_skipIf s _, pc_skipIf_beq_false s _⟩
  · exact ⟨exists_faultRaised_of_keySkip h true, exists_faultRaised_of_keySkip h false⟩

/-- Settles O44: the search for the lowest key answers `k`, or nothing; then the state is unchanged, and its tick leaves the
fetch as it was. -/
theorem waitLoadsTheLowestPressedKey : Obligations.WaitLoadsTheLowestPressedKey := by
  intro x s
  refine ⟨decode_encode (.waitk x), fun k hk hlow => ?_, fun hnone => ?_, fun op hx hnone => ?_⟩
  · refine ⟨_, execWaitk_of_some x s k (s.lowestKey_eq_some hk hlow), ?_, rfl, onlyChanges_setReg s x _⟩
    rw [reg_setReg_advance, BitVec.toNat_ofNat, Nat.mod_eq_of_lt (by omega)]
  · exact ⟨s, exec_waitk_of_no_key x hnone, rfl, onlyChanges_refl s {}⟩
  · exact ⟨s.tick, hx.step_eq_tick (exec_waitk_of_no_key x hnone) hx.fetches.running, onlyTimers_tick s, hx.tick⟩

end

/-! ## The timers (46_timers.md R200 to R204) -/

namespace Sys2Proof.Machine

open Sys2Proof

/-- No row of R39 but those of `STDT` and `STST` names a timer. -/
theorem writesOf_timers (i : Instr) (s : State) (hstdt : ∀ x, i ≠ .stdt x) (hstst : ∀ x, i ≠ .stst x) :
    (writesOf i s).dt = false ∧ (writesOf i s).st = false := by
  cases i with
  | stdt x => exact absurd rfl (hstdt x)
  | stst x => exact absurd rfl (hstst x)
  | waitk x => rw [writesOf]; split <;> exact ⟨rfl, rfl⟩
  | _ => exact ⟨rfl, rfl⟩

/-- An instruction other than `STDT` and `STST` leaves both timers to the tick, whether or not it faults. -/
theorem exec_keeps_timers {s u : State} {i : Instr} (h : exec i s = .next u) (hstdt : ∀ x, i ≠ .stdt x)
    (hstst : ∀ x, i ≠ .stst x) : u.dt = s.dt ∧ u.st = s.st := by
  obtain ⟨hdt, hst⟩ := writesOf_timers i s hstdt hstst
  obtain hw | ⟨k, info, rfl⟩ := exec_next_cases h
  · exact ⟨hw.dt hdt, hw.st hst⟩
  · exact ⟨rfl, rfl⟩

end Sys2Proof.Machine

section

open Sys2Proof Sys2Proof.Machine

/-- Settles O15: the tick takes one off what the instruction left in the timers: the loaded register for `STDT` and `STST`,
the old values for the others. -/
theorem timersTickOncePerStep : Obligations.TimersTickOncePerStep := by
  intro s t op i hx h ht
  obtain ⟨u, hu, -, rfl⟩ := hx.exists_exec_of_running h ht
  rw [State.tick_dt, State.tick_st, tickTimer_toNat, tickTimer_toNat]
  cases i with
  | stdt x | stst x => cases hu; exact ⟨rfl, rfl⟩
  | _ =>
    obtain ⟨hdt, hst⟩ := exec_keeps_timers hu nofun nofun
    exact ⟨congrArg (·.toNat - 1) hdt, congrArg (·.toNat - 1) hst⟩

/-- Settles O45: one write of a register or a timer and the update next; the tick is no part of `exec`. -/
theorem timerInstructionsMoveTheTimers : Obligations.TimerInstructionsMoveTheTimers := by
  intro x s
  exact ⟨⟨decode_encode (.lddt x), _, rfl, reg_setReg_advance s x _, rfl, onlyChanges_setReg s x _⟩,
    ⟨decode_encode (.stdt x), _, rfl, rfl, rfl, onlyChanges_setDelay s _⟩,
    decode_encode (.stst x), _, rfl, rfl, rfl, onlyChanges_setSound s _⟩

end

/-! ## The faults an instruction can raise (60_exceptions.md R210, R214, R218) -/

namespace Sys2Proof.Machine

open Sys2Proof

/-- `i` is one of the four data accesses (42_index_and_memory.md R166). -/
abbrev AccessesMemory (i : Instr) : Prop := (∃ x y n, i = .drw x y n) ∨ ∃ x, i = .bcd x ∨ i = .stm x ∨ i = .ldm x

/-- R218's table: the fault that an instruction may raise in `s`, with its information (R210). -/
inductive MayRaise (s : State) : Instr → FaultKind → Word → Prop where
  | call (nnn : Addr12) (hfull : s.sp.val = 16) : MayRaise s (.call nnn) .stackOverflow s.pc
  | ret (hempty : s.sp.val = 0) : MayRaise s .ret .stackUnderflow s.pc
  | access {i : Instr} (hi : AccessesMemory i) : MayRaise s i .memoryOutOfRange s.index
  | keySkip {i : Instr} (x : Reg) (hi : i = .skp x ∨ i = .sknp x) (hkey : 15 < (s.reg x).toNat) :
      MayRaise s i .keyIndexOutOfRange (zextByte (s.reg x))

/-- `r` is a next state with the status as it was, or with a fault of R218's table raised by `i`. -/
def KeepsStatusOrRaises (s : State) (i : Instr) (r : Result) : Prop :=
  ∃ t, r = .next t ∧ (t.status = s.status ∨ ∃ k info, MayRaise s i k info ∧ t = s.raise k info)

variable {s : State}

theorem keepsStatusOrRaises_of_status {i : Instr} {r : Result} {t : State} (hr : r = .next t)
    (ht : t.status = s.status := by rfl) : KeepsStatusOrRaises s i r := ⟨t, hr, .inl ht⟩

theorem MayRaise.keepsStatusOrRaises {i : Instr} {k : FaultKind} {info : Word} {r : Result} (h : MayRaise s i k info)
    (hr : r = .next (s.raise k info)) : KeepsStatusOrRaises s i r := ⟨_, hr, .inr ⟨k, info, h, rfl⟩⟩

variable (s)

theorem keepsStatusOrRaises_storeAtIndex {i : Instr} (hi : AccessesMemory i) (bs : List Byte) :
    KeepsStatusOrRaises s i (storeAtIndex bs s) := by
  by_cases h : s.index.toNat + (bs.length - 1) < 4096
  · exact keepsStatusOrRaises_of_status (storeAtIndex_inRange bs s h)
  · exact (MayRaise.access hi).keepsStatusOrRaises (storeAtIndex_outOfRange bs s (not_lt.1 h))

theorem keepsStatusOrRaises_keySkip {i : Instr} {x : Reg} (hi : i = .skp x ∨ i = .sknp x) (wanted : Bool) :
    KeepsStatusOrRaises s i (keySkip x wanted s) := by
  by_cases h : (s.reg x).toNat < 16
  · exact keepsStatusOrRaises_of_status (keySkip_of_lt x s h wanted) (s.skipIf_status _)
  · have hkey : 15 < (s.reg x).toNat := not_lt.1 h
    exact (MayRaise.keySkip x hi hkey).keepsStatusOrRaises (keySkip_of_none (keyIndex_of_le _ hkey) wanted)

theorem exec_keepsStatusOrRaises (i : Instr) : KeepsStatusOrRaises s i (exec i s) := by
  cases i with
  | ret =>
    by_cases h : 0 < s.sp.val
    · exact keepsStatusOrRaises_of_status (execRet_of_pos s h)
    · exact (MayRaise.ret (by omega)).keepsStatusOrRaises (execRet_of_empty s h)
  | call nnn =>
    by_cases h : s.sp.val < 16
    · exact keepsStatusOrRaises_of_status (execCall_of_lt nnn s h)
    · exact (MayRaise.call nnn (by omega)).keepsStatusOrRaises (execCall_of_full nnn s h)
  | drw x y n =>
    by_cases h : spriteExists s.index n = true
    · exact keepsStatusOrRaises_of_status (execDrw_of_exists x y n s h)
    · exact (MayRaise.access (.inl ⟨x, y, n, rfl⟩)).keepsStatusOrRaises (execDrw_of_not_exists x y n s h)
  | bcd x => exact keepsStatusOrRaises_storeAtIndex s (.inr ⟨x, .inl rfl⟩) (decimalDigits (s.reg x))
  | stm x => exact keepsStatusOrRaises_storeAtIndex s (.inr ⟨x, .inr (.inl rfl)⟩) (s.regsUpTo x)
  | ldm x =>
    by_cases h : rangeExists s.index x.val = true
    · exact keepsStatusOrRaises_of_status (execLdm_of_exists x s h)
    · exact (MayRaise.access (.inr ⟨x, .inr (.inr rfl)⟩)).keepsStatusOrRaises (execLdm_of_not_exists x s h)
  | skp x => rw [exec, execSkp_eq_keySkip]; exact keepsStatusOrRaises_keySkip s (.inl rfl) true
  | sknp x => rw [exec, execSknp_eq_keySkip]; exact keepsStatusOrRaises_keySkip s (.inr rfl) false
  | waitk x =>
    cases hk : s.lowestKey with
    | some k => exact keepsStatusOrRaises_of_status (execWaitk_of_some x s k hk)
    | none => exact keepsStatusOrRaises_of_status (execWaitk_of_none x s hk)
  | sei x kk | snei x kk | ser x y | sner x y => exact keepsStatusOrRaises_of_status rfl (s.skipIf_status _)
  | _ => exact keepsStatusOrRaises_of_status rfl

variable {s}

/-- An instruction that ends faulted from a running state has raised a fault of R218's table. -/
theorem exists_mayRaise_of_exec_faulted {i : Instr} {u : State} (h : exec i s = .next u) (hs : s.status = .running)
    (hu : u.status = .faulted) : ∃ k info, MayRaise s i k info ∧ u = s.raise k info := by
  obtain ⟨t, ht, hkeeps | hraise⟩ := exec_keepsStatusOrRaises s i
  · cases h.symm.trans ht
    cases hu.symm.trans (hkeeps.trans hs)
  · cases h.symm.trans ht
    exact hraise

theorem lt_pc_of_fetch_eq_none (h : s.fetch = none) : 0xFFE < s.pc.toNat :=
  not_le.1 fun hle => by cases h.symm.trans (fetch_of_le s hle)

/-- A result that is a fault of memory on one side of a condition and a running state on the other. -/
theorem exists_faultRaised_or_running {p : Prop} [Decidable p] {r : Result}
    (hout : p → r = .next (s.raise .memoryOutOfRange s.index))
    (hin : ¬ p → ∃ t, r = .next t ∧ t.status = .running) :
    ∃ t, r = .next t ∧ if p then FaultRaised 4 s.index s t else t.status = .running := by
  by_cases hp : p
  · exact ⟨_, hout hp, (if_pos hp).mpr (faultRaised_raise .memoryOutOfRange s.index s)⟩
  · exact (hin hp).imp fun t ht => ⟨ht.1, (if_neg hp).mpr ht.2⟩

/-! ## What the driver's moves write and read (R227, R228, R229) -/

theorem driveKey_of_lt {i : Nat} (h : i < 16) (b : Bool) (s : State) : driveKey i b s = .next (s.setKey ⟨i, h⟩ b) :=
  dif_pos h

theorem driveKey_ne_next {i : Nat} (h : 15 < i) (b : Bool) (s t : State) : driveKey i b s ≠ .next t := by
  rw [driveKey, dif_neg (by omega)]
  nofun

theorem keys_setKey_same {i : Nat} (h : i < 16) (b : Bool) (s : State) : (s.setKey ⟨i, h⟩ b).keys[i] = b :=
  Vector.getElem_set_self h

theorem keys_setKey_ne {i j : Nat} (h : i < 16) (hj : j < 16) (hne : j ≠ i) (b : Bool) (s : State) :
    (s.setKey ⟨i, h⟩ b).keys[j] = s.keys[j] :=
  Vector.getElem_set_ne h hj hne.symm

/-- What the driver reads is the rows of the framebuffer, one after the other. -/
theorem State.framebuffer_eq_flatten (s : State) : s.framebuffer = s.fb.flatten.toList := by
  calc s.framebuffer
      = (s.fb.toArray.toList.map (Array.toList ∘ Vector.toArray)).flatten := List.flatMap_def
    _ = (s.fb.toArray.map Vector.toArray).flatten.toList := by
        rw [Array.toList_flatten, Array.toList_map, List.map_map]

theorem State.length_framebuffer (s : State) : s.framebuffer.length = 2048 := by
  rw [s.framebuffer_eq_flatten, Vector.length_toList]

theorem State.getElem?_framebuffer (s : State) (i : Fin 2048) : s.framebuffer[i.val]? = some (cell s.fb i) := by
  have hrow : i.val / 64 % 32 = i.val / 64 := Nat.mod_eq_of_lt (by omega)
  rw [s.framebuffer_eq_flatten, Vector.getElem?_toList, Vector.getElem?_eq_getElem i.isLt, Vector.getElem_flatten]
  simp only [cell, pixel, hrow, Nat.mod_mod]

end Sys2Proof.Machine

section

open Sys2Proof Sys2Proof.Machine

/-- Settles O13: the fetch fails, the decoding fails, or the instruction raises a fault of `MayRaise`. -/
theorem raisedFaultsAreTheListed : Obligations.RaisedFaultsAreTheListed := by
  intro s t h ht
  obtain ⟨hr, ⟨hf, rfl⟩ | ⟨op, e, hf, hd, rfl⟩ | ⟨op, i, u, hf, hd, hu, ⟨hrun, rfl⟩ | ⟨-, rfl⟩⟩⟩ :=
    step_next_cases s t h
  · exact .inl ⟨lt_pc_of_fetch_eq_none hf, rfl, rfl⟩
  · cases decode_error_eq op e hd
    exact .inr (.inl ⟨op, (fetch_eq_some_iff s op hr).1 hf, hd, rfl, rfl⟩)
  · cases hrun.symm.trans ht
  · refine .inr (.inr ⟨op, i, ⟨(fetch_eq_some_iff s op hr).1 hf, hd⟩, ?_⟩)
    obtain ⟨k, info, hk, rfl⟩ := exists_mayRaise_of_exec_faulted hu hr ht
    cases hk with
    | call nnn hfull => exact .inl ⟨nnn, rfl, hfull, rfl, rfl⟩
    | ret hempty => exact .inr (.inl ⟨rfl, hempty, rfl, rfl⟩)
    | access hi => exact .inr (.inr (.inl ⟨hi, rfl, rfl⟩))
    | keySkip x hi hkey => exact .inr (.inr (.inr ⟨x, hi, hkey, rfl, zextByte_toNat _⟩))

/-- Settles O35: each access has a branch for a range that exists and one that raises the fault. -/
theorem rangeFaultsAreAllOrNothing : Obligations.RangeFaultsAreAllOrNothing := by
  intro x y n s hr
  refine ⟨exists_faultRaised_or_running (fun h => ?_) (fun h => ?_),
    exists_faultRaised_or_running (exec_stm_outOfRange x s) (fun h => ?_),
    exists_faultRaised_or_running (exec_ldm_outOfRange x s) (fun h => ?_),
    exists_faultRaised_or_running (fun h => ?_) (fun h => ?_)⟩
  · exact storeAtIndex_outOfRange (decimalDigits (s.reg x)) s h
  · exact ⟨_, storeAtIndex_inRange (decimalDigits (s.reg x)) s (not_le.1 h), hr⟩
  · exact ⟨_, exec_stm_inRange x s (not_le.1 h), hr⟩
  · exact ⟨_, exec_ldm_inRange x s (not_le.1 h), hr⟩
  · exact execDrw_of_not_exists x y n s (by rw [spriteExists_iff]; omega)
  · exact ⟨_, execDrw_of_exists x y n s ((spriteExists_iff _ _).2 (by omega)), hr⟩

/-- Settles O47: a press and a release set one key, an acknowledgment clears `dirty`, and a read is of the state itself. -/
theorem driverMovesTouchOnlyTheirState : Obligations.DriverMovesTouchOnlyTheirState := by
  intro s
  refine ⟨fun i h => ?_, fun i h t => ⟨driveKey_ne_next h true s t, driveKey_ne_next h false s t⟩, ?_,
    s.getElem?_framebuffer, s.length_framebuffer, rfl, rfl, rfl⟩
  · exact ⟨_, _, driveKey_of_lt h true s, driveKey_of_lt h false s, keys_setKey_same h true s, keys_setKey_same h false s,
      fun j hj hne => ⟨keys_setKey_ne h hj hne true s, keys_setKey_ne h hj hne false s⟩,
      onlyChanges_refl _ _, onlyChanges_refl _ _, rfl, rfl⟩
  · exact ⟨_, rfl, rfl, rfl, onlyChanges_acknowledge⟩

/-- Settles O10: such bits do not decode, and the empty image's first fetch is of two bytes 0x00, which no row matches. -/
theorem unrecognizedOpcodeFaults : Obligations.UnrecognizedOpcodeFaults := by
  have hfaults (s : State) (op : Word) (hf : Fetches s op) (hrows : ∀ r ∈ opcodeMap, op &&& r.mask ≠ r.value) :
      ∃ t, step s = .next t ∧ FaultRaised 1 op s t := by
    obtain ⟨-, -, hd⟩ := decodeSelectsTheMatchingRow op
    exact ⟨_, step_of_decode_error hf (hd hrows), faultRaised_raise .unrecognizedOpcode op s⟩
  have hreset : Fetches State.reset 0x0000 := ⟨rfl, by decide, by decide⟩
  obtain ⟨t, ht, hfault⟩ := hfaults State.reset 0x0000 hreset (by decide)
  exact ⟨hfaults, State.reset, t, rfl, ht, hfault, congrArg BitVec.toNat hfault.pc⟩

/-- Settles O11: the fetch answers nothing, by R65. -/
theorem fetchBeyondMemoryFaults : Obligations.FetchBeyondMemoryFaults := by
  intro s hr hpc
  exact ⟨_, step_of_fetch_none hr (fetch_of_lt s hpc), faultRaised_raise .fetchOutOfRange s.pc s⟩

end

/-! ## The two bytes of an instruction (20_memory.md R65, 30_encoding.md R90) -/

namespace Sys2Proof

/-- The decoder takes the two bytes of one opcode, high byte first, and leaves the rest (R65, R99). -/
theorem decodeBytes_of_decode {op : Word} {i : Instr} (h : decode op = .ok i) (rest : List Byte) :
    decodeBytes (highByte op :: lowByte op :: rest) = .ok (i, rest) := by
  rw [decodeBytes, wordOfBytes_high_low, h]

theorem decodeBytes_encodeBytes_append (i : Instr) (rest : List Byte) :
    decodeBytes (encodeBytes i ++ rest) = .ok (i, rest) := decodeBytes_of_decode (decode_encode i) rest

end Sys2Proof

/-! ## Reset with an image (20_memory.md R63, 70_reset_and_hazards.md R251, R252) -/

namespace Sys2Proof.Machine

open Sys2Proof

theorem initialByte_glyph (j : Fin 80) : initialByte (0x050 + j.val) = Config.glyphTable j := by
  have hj : 0x050 + j.val - Config.glyphBase = j.val := Nat.add_sub_cancel_left ..
  rw [initialByte, dif_pos ⟨Nat.le_add_right .., hj.symm ▸ j.isLt⟩]
  exact congrArg Config.glyphTable (Fin.ext hj)

theorem initialByte_of_not_glyph {a : Nat} (h : a < 0x050 ∨ 0x0A0 ≤ a) : initialByte a = 0 :=
  dif_neg fun ⟨(hbase : 0x050 ≤ a), (hsize : a - 0x050 < 80)⟩ => by omega

theorem resetWith_of_le {image : List Byte} (h : image.length ≤ 3584) :
    resetWith image = .next (State.reset.setMem (Memory.writeList [] 0x200 image)) := if_pos h

theorem resetWith_ne_next {image : List Byte} (h : 3584 < image.length) (t : State) : resetWith image ≠ .next t := by
  rw [resetWith, if_neg (not_le.2 h)]
  nofun

variable {image : List Byte}

theorem read_loaded_image {i : Nat} (h : i < image.length) :
    Memory.read (Memory.writeList [] 0x200 image) (0x200 + i) = image[i] := by
  have hi : 0x200 + i - 0x200 = i := Nat.add_sub_cancel_left ..
  rw [Memory.read_writeList, dif_pos ⟨Nat.le_add_right .., hi.symm ▸ h⟩]
  simp only [hi]

/-- The load leaves the reset contents everywhere but under the image. -/
theorem read_loaded_outside {a : Nat} (h : a < 0x200 ∨ 0x200 + image.length ≤ a) :
    Memory.read (Memory.writeList [] 0x200 image) a = initialByte a :=
  Memory.read_writeList_outside [] 0x200 image a h

theorem read_loaded_glyph (j : Fin 80) :
    Memory.read (Memory.writeList [] 0x200 image) (0x050 + j.val) = Config.glyphTable j :=
  (read_loaded_outside (.inl (by omega))).trans (initialByte_glyph j)

theorem reg_reset (r : Reg) : State.reset.reg r = 0 := Vector.getElem_replicate r.isLt

theorem stack_reset {k : Nat} (h : k < 16) : State.reset.stack[k] = 0 := Vector.getElem_replicate h

theorem key_reset (k : Key) : State.reset.key k = false := Vector.getElem_replicate k.isLt

theorem cell_reset (i : Fin 2048) : cell State.reset.fb i = false := cell_clearFrame i

end Sys2Proof.Machine

section

open Sys2Proof Sys2Proof.Machine

/-- Settles O2: `decode_encode` for the opcode, and the two bytes put together are that opcode. -/
theorem decodeOfEncodeIsIdentity : Obligations.DecodeOfEncodeIsIdentity :=
  fun i => ⟨decode_encode i, decodeBytes_encodeBytes_append i⟩

/-- Settles O3: each branch of the decoder reads every bit of its format (`encode_of_decode`). -/
theorem encodeOfDecodeIsIdentity : Obligations.EncodeOfDecodeIsIdentity := fun _ _ => encode_of_decode

/-- Settles O46: the load writes memory only, at 0x200 and up, so every other piece is that of `State.reset` and every
other address keeps its reset contents. -/
theorem resetLoadsTheImage : Obligations.ResetLoadsTheImage := by
  intro image
  refine ⟨fun hlen => ⟨_, resetWith_of_le hlen, fun i h => read_loaded_image h, read_loaded_glyph, fun a ha => ?_,
    reg_reset, rfl, rfl, fun k h => stack_reset h, rfl, rfl, rfl, key_reset, cell_reset, rfl, rfl, rfl, rfl, rfl⟩,
    resetWith_ne_next⟩
  have hout : a < 0x200 ∨ 0x200 + image.length ≤ a := by omega
  have hglyph : a < 0x050 ∨ 0x0A0 ≤ a := by omega
  exact (read_loaded_outside hout).trans (initialByte_of_not_glyph hglyph)

end
